-- ==== Sys2Proof/Word.lean ====
section
/-!
DEFINITION. The word types of the block (00_scope.md R6, R8): every value is an unsigned
number of a stated width.
-/

namespace Sys2Proof

/-- A byte: a general register, a timer, a byte of memory, an immediate `kk`. -/
abbrev Byte := BitVec 8

/-- A 16-bit word: pc, I, a stack entry, an instruction word. -/
abbrev Word := BitVec 16

/-- A 4-bit field: `n`, an operation class, a key number. -/
abbrev Nibble := BitVec 4

/-- The number of a general register, V0 to VF (10_state.md R20). -/
abbrev Reg := BitVec 4

/-- A 12-bit address field `nnn`. -/
abbrev Addr := BitVec 12

end Sys2Proof
end

