-- ==== Sys2Proof/Config.lean ====
section
/-!
DEFINITION. The fixed sizes of the block (00_scope.md R6) and its two free values
(00_scope.md R7). The font bytes, the other parameter of R7, are
`Sys2Proof.Machine.fontTable` in Machine/Memory.lean.
-/

namespace Sys2Proof

/-- `PC_RESET` and `PROG_BASE` of 00_scope.md R6. -/
abbrev Config.programBase : Nat := 0x200

/-- `MEM_BYTES` of 00_scope.md R6. -/
abbrev Config.memBytes : Nat := 4096

/-- `MAX_IMAGE` of 00_scope.md R6. -/
abbrev Config.maxImage : Nat := Config.memBytes - Config.programBase

/-- `STACK_DEPTH` of 00_scope.md R6. -/
abbrev Config.stackDepth : Nat := 16

/-- `FONT_BASE` of 00_scope.md R6. -/
abbrev Config.fontBase : Word := 0x000

/-- `GLYPH_BYTES` of 00_scope.md R6. -/
abbrev Config.glyphBytes : Word := 5

/-- FREE VALUE (log 1; decision D7): the byte the n-th draw gives to a CXKK, 42_arithmetic.md R143.
It has no body, so a claim about it holds for every sequence of bytes. -/
opaque Config.rnd : Nat → Byte

/-- FREE VALUE (log 1; decision D8): the outcome the n-th draw gives to a key test of an index above 0xF,
45_input_timers.md R200. It has no body, so a claim about it holds for every sequence of outcomes. -/
opaque Config.keyOob : Nat → Bool

end Sys2Proof
end

