-- ==== Sys2Proof/Machine/State.lean ====
section
/-!
DEFINITION. The state of the block (10_state.md R38), the reasons a step can stop, and the state
after reset (10_state.md R36).
-/

namespace Sys2Proof.Machine

/-- The fault register (10_state.md R33; decision D5, log 10). -/
inductive FaultCode where
  /-- Code 0: no fault. -/
  | none
  /-- Code 1: a CALL with sp = 16. -/
  | stackOverflow
  /-- Code 2: a RET with sp = 0. -/
  | stackUnderflow
  deriving DecidableEq, Repr

/-- Why a step stops the model. The two stack faults of the spec are NOT here: their entry is a next
state (60_exceptions.md R222), with the fault register written. -/
inductive Fault where
  /-- Raised by CALL and RET when sp is above 16, so that `stack[sp]` or `stack[sp - 1]` names no entry.
  The spec says sp only holds 0 to 16 (10_state.md R26); no command leads to such a state. SAFE (log 6). -/
  | stackIndexOutOfRange
  deriving DecidableEq, Repr

/-- Why a step has no meaning. -/
inductive Refusal where
  /-- Raised by an arm of `exec` whose instruction has no meaning yet, by its mnemonic; no arm does. SAFE. -/
  | notModelled (mnemonic : String)
  deriving DecidableEq, Repr

/-- Memory: the bytes that differ from their reset contents, by address, addresses strictly rising
(`Memory.wf`); an unlisted byte reads as `resetByte` (Machine/Memory.lean). -/
abbrev Memory := List Host.Cell

/-- A row of the framebuffer: 64 pixels, column 0 first (10_state.md R31). -/
abbrev PixelRow := Vector Bool 64

/-- The framebuffer: 32 rows of 64 pixels, row-major (10_state.md R31; decision D12). -/
abbrev Grid := Vector PixelRow 32

/-- The architectural state (10_state.md R38), and the model's own counter of draws. -/
structure State where
  /-- V0 to VF (R20). -/
  v : Vector Byte 16
  /-- The index register I (R23). -/
  index : Word
  /-- The program counter (R24). -/
  pc : Word
  /-- The stack pointer: the number of return addresses on the stack (R26). -/
  sp : Byte
  /-- The call stack (R27). -/
  stack : Vector Word 16
  /-- The delay timer DT (R28). -/
  dt : Byte
  /-- The sound timer ST (R29). -/
  st : Byte
  /-- The input latch (R30). -/
  key : Vector Bool 16
  /-- The framebuffer (R31). -/
  fb : Grid
  /-- The dirty flag (R32). -/
  dirty : Bool
  /-- The fault register (R33). -/
  fault : FaultCode
  /-- The memory (20_memory.md R50). -/
  mem : Memory
  /-- MODEL'S OWN (log 1, log 2): how many draws have been used; it picks the next free value. -/
  draws : Nat
  deriving DecidableEq, Repr

/-- A framebuffer with every pixel off. -/
def blankGrid : Grid := Vector.replicate 32 (Vector.replicate 64 false)

/-- The state after construction and after every Reset (10_state.md R36, 70_reset_and_hazards.md R260, R261). -/
def State.reset : State where
  v := Vector.replicate 16 0
  index := 0
  pc := BitVec.ofNat 16 Config.programBase
  sp := 0
  stack := Vector.replicate 16 0
  dt := 0
  st := 0
  key := Vector.replicate 16 false
  fb := blankGrid
  dirty := false
  fault := .none
  mem := []
  draws := 0

end Sys2Proof.Machine
end

