-- ==== Sys2Proof/Machine/Memory.lean ====
section
/-!
DEFINITION. The one memory of the block (20_memory.md): its reset contents, the font among them,
and reading and writing one byte of the canonical list that holds it.
-/

namespace Sys2Proof.Machine

/-- `FontTable` (10_state.md R37): 5 bytes for each of the digits 0 to F, the spec's default bytes
(decision D10, log 3). A claim that depends on a glyph's pixels names this constant. -/
def fontTable : List Byte :=
  [0xF0, 0x90, 0x90, 0x90, 0xF0] ++ [0x20, 0x60, 0x20, 0x20, 0x70] ++
  [0xF0, 0x10, 0xF0, 0x80, 0xF0] ++ [0xF0, 0x10, 0xF0, 0x10, 0xF0] ++
  [0x90, 0x90, 0xF0, 0x10, 0x10] ++ [0xF0, 0x80, 0xF0, 0x10, 0xF0] ++
  [0xF0, 0x80, 0xF0, 0x90, 0xF0] ++ [0xF0, 0x10, 0x20, 0x40, 0x40] ++
  [0xF0, 0x90, 0xF0, 0x90, 0xF0] ++ [0xF0, 0x90, 0xF0, 0x10, 0xF0] ++
  [0xF0, 0x90, 0xF0, 0x90, 0x90] ++ [0xE0, 0x90, 0xE0, 0x90, 0xE0] ++
  [0xF0, 0x80, 0x80, 0x80, 0xF0] ++ [0xE0, 0x90, 0x90, 0x90, 0xE0] ++
  [0xF0, 0x80, 0xF0, 0x80, 0xF0] ++ [0xF0, 0x80, 0xF0, 0x80, 0x80]

/-- What a byte holds after Reset (10_state.md R36): the font at 0x000 to 0x04F, zero elsewhere.
It is what an address that a memory does not list reads as (log 4). -/
def resetByte (a : Nat) : Byte := fontTable.getD a 0

/-- The address an access reaches: every address is taken modulo 4096 (20_memory.md R51; decision D1, log 9). -/
def busAddress (a : Nat) : Nat := a % Config.memBytes

/-- The byte at address `a`. -/
def Memory.read : Memory → Nat → Byte
  | [], a => resetByte a
  | (b, v) :: m, a => if a = b then v else Memory.read m a

/-- The list without a cell for address `a`. -/
def Memory.erase (m : Memory) (a : Nat) : Memory := m.filter fun c => c.1 != a

/-- The list with the cell `(a, v)` before the first cell of a higher address. -/
def Memory.insertCell (a : Nat) (v : Byte) : Memory → Memory
  | [] => [(a, v)]
  | c :: m => if a < c.1 then (a, v) :: c :: m else c :: Memory.insertCell a v m

/-- The memory with byte `v` at address `a`, in canonical form again: a byte equal to what an unlisted address
reads as is not listed. -/
def Memory.write (m : Memory) (a : Nat) (v : Byte) : Memory :=
  if v = resetByte a then m.erase a else Memory.insertCell a v (m.erase a)

/-- The canonical form: addresses strictly rising and inside the address space (20_memory.md R50), and no cell
equal to what an unlisted address reads as. -/
abbrev Memory.wf (m : Memory) : Prop :=
  m.Pairwise (fun c d => c.1 < d.1) ∧ ∀ c ∈ m, c.1 < Config.memBytes ∧ c.2 ≠ resetByte c.1

/-- The memory with `bytes` written at ascending addresses from `a` on. -/
def Memory.writeList (m : Memory) (a : Nat) : List Byte → Memory
  | [] => m
  | v :: bytes => Memory.writeList (m.write a v) (a + 1) bytes

end Sys2Proof.Machine
end

