-- ==== Sys2Proof/Machine/Ops.lean ====
section
/-!
DEFINITION. The named operations over the state: reading and writing each element of
10_state.md R38, the call stack, and the entry of a stack fault (60_exceptions.md R222). The
block has no return from a fault (60_exceptions.md R224), so none stands beside it.
-/

namespace Sys2Proof.Machine

/-! ### General registers (10_state.md R20, R21) -/

/-- VF, the flag register (R21). -/
abbrev regF : Reg := 0xF

/-- `V[x]`. -/
def State.reg (s : State) (x : Reg) : Byte := s.v[x.toNat]'x.isLt

/-- `V[x] <- b`. -/
def State.setReg (s : State) (x : Reg) (b : Byte) : State :=
  { s with v := s.v.set x.toNat b x.isLt }

/-! ### I, pc, the timers, the dirty flag, the draws -/

/-- `I <- w` (R23). -/
def State.setIndex (s : State) (w : Word) : State := { s with index := w }

/-- `pc <- w` (R24). -/
def State.setPc (s : State) (w : Word) : State := { s with pc := w }

/-- `DT <- b` (R28). -/
def State.setDt (s : State) (b : Byte) : State := { s with dt := b }

/-- `ST <- b` (R29). -/
def State.setSt (s : State) (b : Byte) : State := { s with st := b }

/-- `dirty <- d` (R32). -/
def State.setDirty (s : State) (d : Bool) : State := { s with dirty := d }

/-- One more draw has been used (log 1). -/
def State.nextDraw (s : State) : State := { s with draws := s.draws + 1 }

/-! ### Input latch (R30) -/

/-- `key[k]`. -/
def State.keyDown (s : State) (k : Nibble) : Bool := s.key[k.toNat]'k.isLt

/-- `key[k] <- pressed`. -/
def State.setKey (s : State) (k : Nibble) (pressed : Bool) : State :=
  { s with key := s.key.set k.toNat pressed k.isLt }

/-! ### Framebuffer (R31): column `x`, row `y` -/

/-- The cell of a grid. -/
def Grid.cell (g : Grid) (x : Fin 64) (y : Fin 32) : Bool := (g[y.val]'y.isLt)[x.val]'x.isLt

/-- The grid with one cell inverted. -/
def Grid.flip (g : Grid) (x : Fin 64) (y : Fin 32) : Grid :=
  g.set y.val ((g[y.val]'y.isLt).set x.val (!g.cell x y) x.isLt) y.isLt

/-- `fb[x, y]`. -/
def State.pixel (s : State) (x : Fin 64) (y : Fin 32) : Bool := s.fb.cell x y

/-- `fb[x, y] <- not fb[x, y]`. -/
def State.flipPixel (s : State) (x : Fin 64) (y : Fin 32) : State := { s with fb := s.fb.flip x y }

/-- Every pixel off. -/
def State.clearFb (s : State) : State := { s with fb := blankGrid }

/-! ### Memory (20_memory.md R51) -/

/-- `MemRead(a, 1)`. -/
def State.memRead (s : State) (a : Nat) : Byte := s.mem.read (busAddress a)

/-- `MemWrite(a, 1, b)`. -/
def State.memWrite (s : State) (a : Nat) (b : Byte) : State :=
  { s with mem := s.mem.write (busAddress a) b }

/-! ### Skips (41_control_flow.md R101) -/

/-- `Skip()`: the pc, which already holds the address of the next word, moves past that word. -/
def State.skip (s : State) : State := s.setPc (s.pc + 2)

/-- `if c: Skip()`. -/
def State.skipIf (c : Bool) (s : State) : State := if c then s.skip else s

/-! ### Stack faults and the call stack (60_exceptions.md R222, 41_control_flow.md R103, R105) -/

/-- `raise code(A)`: the fetch's advance is undone, so that the pc holds A, the address of the faulting
instruction, and the fault register is written; nothing else changes (60_exceptions.md R222). -/
def State.raise (s : State) (code : FaultCode) : State :=
  { s with pc := s.pc - 2, fault := code }

/-- `stack[sp] <- pc; sp <- sp + 1`. -/
def State.pushReturn (s : State) (h : s.sp.toNat < 16) : State :=
  { s with stack := s.stack.set s.sp.toNat s.pc h, sp := s.sp + 1 }

/-- `sp <- sp - 1; pc <- stack[sp]`; the entry keeps its value (10_state.md R27, decision D22). -/
def State.popReturn (s : State) (h : (s.sp - 1).toNat < 16) : State :=
  { s with sp := s.sp - 1, pc := s.stack[(s.sp - 1).toNat]'h }

/-- The call of 41_control_flow.md R105: StackOverflow when sp = 16, else the return address is pushed and the
pc goes to the target. Above 16 the index names no entry (log 6). -/
def State.callTo (s : State) (target : Word) : Host.Outcome State Fault Refusal :=
  if s.sp = 16 then .next (s.raise .stackOverflow)
  else if h : s.sp.toNat < 16 then .next ((s.pushReturn h).setPc target)
  else .fault .stackIndexOutOfRange

/-- The return of 41_control_flow.md R103: StackUnderflow when sp = 0, else the newest return address goes to the
pc. Above 16 the index names no entry (log 6). -/
def State.returnFromCall (s : State) : Host.Outcome State Fault Refusal :=
  if s.sp = 0 then .next (s.raise .stackUnderflow)
  else if h : (s.sp - 1).toNat < 16 then .next (s.popReturn h)
  else .fault .stackIndexOutOfRange

end Sys2Proof.Machine
end

