-- ==== Sys2Proof/Machine/Flags.lean ====
section
/-!
DEFINITION. The values that instructions write to VF (42_arithmetic.md R138 to R142,
44_display.md R182). The block has no other condition code (10_state.md R34).
-/

namespace Sys2Proof.Machine

/-- A flag as a byte: 1 or 0. -/
def flagByte (b : Bool) : Byte := if b then 1 else 0

/-- The carry out of bit 7: the sum is above 255 (42_arithmetic.md R138). -/
def carryFlag (sum : Nat) : Byte := flagByte (decide (sum > 255))

/-- The strict comparison of SUB and SUBN (42_arithmetic.md R139, R141): 0 when the operands are equal. -/
def greaterFlag (a b : Byte) : Byte := flagByte (decide (a > b))

/-- The bit SHR shifts out (42_arithmetic.md R140). -/
def lowBitFlag (b : Byte) : Byte := b &&& 1

/-- The bit SHL shifts out (42_arithmetic.md R142). -/
def highBitFlag (b : Byte) : Byte := (b >>> 7) &&& 1

/-- `VF <- flag`. -/
def State.setFlag (s : State) (flag : Byte) : State := s.setReg regF flag

end Sys2Proof.Machine
end

