-- ==== Sys2Proof/Machine/Operands.lean ====
section
/-!
DEFINITION. The operand forms of 30_encoding.md R72, the I-relative address of
43_index_memory.md R160, the key test of 45_input_timers.md R200, and the block transfers.
-/

namespace Sys2Proof.Machine

/-- `zext_16(nnn)` (R72). -/
def zextAddr (nnn : Addr) : Word := nnn.setWidth 16

/-- `zext_16(v)` of a byte (00_scope.md R9). -/
def zextByte (b : Byte) : Word := b.setWidth 16

/-- The address I + k of the only data addressing mode (43_index_memory.md R160); the access reduces it. -/
def dataAddress (s : State) (k : Nat) : Nat := s.index.toNat + k

/-- The number of the k-th general register. -/
def regNumber (k : Nat) : Reg := BitVec.ofNat 4 k

/-- The low nibble of a byte, as a key number. -/
def keyNumber (b : Byte) : Nibble := b.setWidth 4

/-- `Pressed(v)` and the state after it: the latch for 0x0 to 0xF, above that the next draw `key_oob`
(45_input_timers.md R200; decision D8, log 1). -/
def pressed (s : State) (b : Byte) : Bool × State :=
  if b ≤ 0xF then (s.keyDown (keyNumber b), s) else (Config.keyOob s.draws, s.nextDraw)

/-- The keys in the order FX0A scans them (45_input_timers.md R203). -/
def keyScan : List Nibble :=
  [0x0, 0x1, 0x2, 0x3, 0x4, 0x5, 0x6, 0x7] ++ [0x8, 0x9, 0xA, 0xB, 0xC, 0xD, 0xE, 0xF]

/-- The lowest key that is set. -/
def firstKey (s : State) : Option Nibble := keyScan.find? s.keyDown

/-- `for i = 0 to count - 1: MemWrite(I + i, 1, V[i])` (43_index_memory.md R165): the stores write
no register, so each reads the registers of the start. -/
def storeRegs (s : State) : Nat → State
  | 0 => s
  | k + 1 => (storeRegs s k).memWrite (dataAddress s k) (s.reg (regNumber k))

/-- `for i = 0 to count - 1: V[i] <- MemRead(I + i, 1)` (43_index_memory.md R166): the loads write
no memory, so each reads the memory of the start. -/
def loadRegs (s : State) : Nat → State
  | 0 => s
  | k + 1 => (loadRegs s k).setReg (regNumber k) (s.memRead (dataAddress s k))

end Sys2Proof.Machine
end

