-- ==== Sys2Proof/Machine/Arithmetic.lean ====
section
/-!
DEFINITION. Register loads, arithmetic and logic (42_arithmetic.md). The statements of a meaning
run in the order of its rule's pseudocode, and each reads the registers as the earlier ones left
them (R131; decision D6, log 11).
-/

namespace Sys2Proof.Machine

/-- LD Vx, kk (R132). -/
def execLdImm (x : Reg) (kk : Byte) (s : State) : Host.Outcome State Fault Refusal :=
  .next (s.setReg x kk)

/-- ADD Vx, kk (R133): no flag. -/
def execAddImm (x : Reg) (kk : Byte) (s : State) : Host.Outcome State Fault Refusal :=
  .next (s.setReg x (s.reg x + kk))

/-- LD Vx, Vy (R134). -/
def execLdReg (x y : Reg) (s : State) : Host.Outcome State Fault Refusal :=
  .next (s.setReg x (s.reg y))

/-- OR Vx, Vy (R135). -/
def execOrReg (x y : Reg) (s : State) : Host.Outcome State Fault Refusal :=
  .next (s.setReg x (s.reg x ||| s.reg y))

/-- AND Vx, Vy (R136). -/
def execAndReg (x y : Reg) (s : State) : Host.Outcome State Fault Refusal :=
  .next (s.setReg x (s.reg x &&& s.reg y))

/-- XOR Vx, Vy (R137). -/
def execXorReg (x y : Reg) (s : State) : Host.Outcome State Fault Refusal :=
  .next (s.setReg x (s.reg x ^^^ s.reg y))

/-- ADD Vx, Vy (R138): the natural sum first, then the flag, then the result. -/
def execAddReg (x y : Reg) (s : State) : Host.Outcome State Fault Refusal :=
  let sum := (s.reg x).toNat + (s.reg y).toNat
  .next ((s.setFlag (carryFlag sum)).setReg x (BitVec.ofNat 8 sum))

/-- SUB Vx, Vy (R139): the flag, then the difference of the registers as the flag write left them. -/
def execSubReg (x y : Reg) (s : State) : Host.Outcome State Fault Refusal :=
  let s₁ := s.setFlag (greaterFlag (s.reg x) (s.reg y))
  .next (s₁.setReg x (s₁.reg x - s₁.reg y))

/-- SHR Vx, Vy (R140): the flag, then V[y] as the flag write left it, shifted right. -/
def execShrReg (x y : Reg) (s : State) : Host.Outcome State Fault Refusal :=
  let s₁ := s.setFlag (lowBitFlag (s.reg y))
  .next (s₁.setReg x (s₁.reg y >>> 1))

/-- SUBN Vx, Vy (R141): the flag, then the difference of the registers as the flag write left them. -/
def execSubnReg (x y : Reg) (s : State) : Host.Outcome State Fault Refusal :=
  let s₁ := s.setFlag (greaterFlag (s.reg y) (s.reg x))
  .next (s₁.setReg x (s₁.reg y - s₁.reg x))

/-- SHL Vx, Vy (R142): the flag, then V[y] as the flag write left it, shifted left. -/
def execShlReg (x y : Reg) (s : State) : Host.Outcome State Fault Refusal :=
  let s₁ := s.setFlag (highBitFlag (s.reg y))
  .next (s₁.setReg x (s₁.reg y <<< 1))

/-- RND Vx, kk (R143): the next draw, a free value (decision D7, log 1), masked. -/
def execRnd (x : Reg) (kk : Byte) (s : State) : Host.Outcome State Fault Refusal :=
  .next (s.nextDraw.setReg x (Config.rnd s.draws &&& kk))

end Sys2Proof.Machine
end

