-- ==== Sys2Proof/Machine/ControlFlow.lean ====
section
/-!
DEFINITION. Control transfer and skips (41_control_flow.md). Every meaning runs after the fetch:
the pc of its state is A + 2, A being the instruction's address.
-/

namespace Sys2Proof.Machine

/-- SYS nnn (R102): a no-op. -/
def execSys (_nnn : Addr) (s : State) : Host.Outcome State Fault Refusal := .next s

/-- RET (R103). -/
def execRet (s : State) : Host.Outcome State Fault Refusal := s.returnFromCall

/-- JP nnn (R104). -/
def execJp (nnn : Addr) (s : State) : Host.Outcome State Fault Refusal :=
  .next (s.setPc (zextAddr nnn))

/-- CALL nnn (R105). -/
def execCall (nnn : Addr) (s : State) : Host.Outcome State Fault Refusal :=
  s.callTo (zextAddr nnn)

/-- SE Vx, kk (R106). -/
def execSeImm (x : Reg) (kk : Byte) (s : State) : Host.Outcome State Fault Refusal :=
  .next (s.skipIf (s.reg x == kk))

/-- SNE Vx, kk (R107). -/
def execSneImm (x : Reg) (kk : Byte) (s : State) : Host.Outcome State Fault Refusal :=
  .next (s.skipIf (s.reg x != kk))

/-- SE Vx, Vy (R108); n is ignored (decision D9, log 12). -/
def execSeReg (x y : Reg) (_n : Nibble) (s : State) : Host.Outcome State Fault Refusal :=
  .next (s.skipIf (s.reg x == s.reg y))

/-- SNE Vx, Vy (R109); n is ignored (decision D9, log 12). -/
def execSneReg (x y : Reg) (_n : Nibble) (s : State) : Host.Outcome State Fault Refusal :=
  .next (s.skipIf (s.reg x != s.reg y))

/-- JP V0, nnn (R110): the 16-bit sum (decision D2, log 9). -/
def execJpV0 (nnn : Addr) (s : State) : Host.Outcome State Fault Refusal :=
  .next (s.setPc (zextAddr nnn + zextByte (s.reg 0)))

end Sys2Proof.Machine
end

