-- ==== Sys2Proof/Machine/Display.lean ====
section
/-!
DEFINITION. CLS and DRW (44_display.md): the loops of R182, a column, a row and a sprite at a time.
-/

namespace Sys2Proof.Machine

/-- Column `c` of a sprite byte: bit 7 - c (44_display.md R180; decision D11, log 13). -/
def spriteBit (b : Byte) (c : Nat) : Bool := b.getLsbD (7 - c)

/-- One lit sprite pixel: VF <- 1 where the cell is on, then the cell is inverted (R182). -/
def State.xorPixel (s : State) (tx : Fin 64) (ty : Fin 32) : State :=
  (if s.pixel tx ty then s.setFlag 1 else s).flipPixel tx ty

/-- Column `c` of the sprite row `b`: nothing where it lies right of column 63, or where its bit is 0 (R182). -/
def State.drawColumn (s : State) (ox : Nat) (ty : Fin 32) (b : Byte) (c : Nat) : State :=
  if h : ox + c < 64 then
    if spriteBit b c then s.xorPixel ⟨ox + c, h⟩ ty else s
  else s

/-- The first `count` columns of the sprite row `b`, column 0 first (R182). -/
def State.drawColumns (s : State) (ox : Nat) (ty : Fin 32) (b : Byte) : Nat → State
  | 0 => s
  | c + 1 => (s.drawColumns ox ty b c).drawColumn ox ty b c

/-- Row `r` of the sprite: nothing where it lies below row 31, else the byte at I + r, 8 columns (R182). -/
def State.drawRow (s : State) (ox oy r : Nat) : State :=
  if h : oy + r < 32 then s.drawColumns ox ⟨oy + r, h⟩ (s.memRead (dataAddress s r)) 8
  else s

/-- The first `count` rows of the sprite, row 0 first (R182). -/
def State.drawRows (s : State) (ox oy : Nat) : Nat → State
  | 0 => s
  | r + 1 => (s.drawRows ox oy r).drawRow ox oy r

/-- The origin column of a sprite: V[x] mod 64 (R182). -/
def originColumn (s : State) (x : Reg) : Nat := (s.reg x).toNat % 64

/-- The origin row of a sprite: V[y] mod 32 (R182). -/
def originRow (s : State) (y : Reg) : Nat := (s.reg y).toNat % 32

/-- CLS (R181). -/
def execCls (s : State) : Host.Outcome State Fault Refusal := .next (s.clearFb.setDirty true)

/-- DRW Vx, Vy, n (R182): the origin is read before VF is set to 0 (decision D6, log 11). -/
def execDrw (x y : Reg) (n : Nibble) (s : State) : Host.Outcome State Fault Refusal :=
  .next (((s.setFlag 0).drawRows (originColumn s x) (originRow s y) n.toNat).setDirty true)

end Sys2Proof.Machine
end

