-- ==== Sys2Proof/Machine/IndexMemory.lean ====
section
/-!
DEFINITION. The index register and memory transfer (43_index_memory.md). No meaning here changes I
as a side effect of an access (R160; decision D14, log 15).
-/

namespace Sys2Proof.Machine

/-- LD I, nnn (R161). -/
def execLdI (nnn : Addr) (s : State) : Host.Outcome State Fault Refusal :=
  .next (s.setIndex (zextAddr nnn))

/-- ADD I, Vx (R162): 16-bit sum, no flag (decision D2, log 9). -/
def execAddIVx (x : Reg) (s : State) : Host.Outcome State Fault Refusal :=
  .next (s.setIndex (s.index + zextByte (s.reg x)))

/-- LD F, Vx (R163): the whole register times 5 (decision D15, log 16). -/
def execLdFVx (x : Reg) (s : State) : Host.Outcome State Fault Refusal :=
  .next (s.setIndex (Config.fontBase + Config.glyphBytes * zextByte (s.reg x)))

/-- LD B, Vx (R164): hundreds, tens and ones at I, I + 1 and I + 2. -/
def execLdBVx (x : Reg) (s : State) : Host.Outcome State Fault Refusal :=
  let v := (s.reg x).toNat
  .next (((s.memWrite (dataAddress s 0) (BitVec.ofNat 8 (v / 100))).memWrite
    (dataAddress s 1) (BitVec.ofNat 8 (v / 10 % 10))).memWrite
    (dataAddress s 2) (BitVec.ofNat 8 (v % 10)))

/-- LD [I], Vx (R165): V0 to Vx, x + 1 bytes. -/
def execLdMemVx (x : Reg) (s : State) : Host.Outcome State Fault Refusal :=
  .next (storeRegs s (x.toNat + 1))

/-- LD Vx, [I] (R166): V0 to Vx, x + 1 bytes. -/
def execLdVxMem (x : Reg) (s : State) : Host.Outcome State Fault Refusal :=
  .next (loadRegs s (x.toNat + 1))

end Sys2Proof.Machine
end

