-- ==== Sys2Proof/Machine/InputTimers.lean ====
section
/-!
DEFINITION. Key input and timer access (45_input_timers.md). Which of FX07, FX15 and FX18 accesses
which timer follows decision D13 (log 14).
-/

namespace Sys2Proof.Machine

/-- SKP Vx (R201). -/
def execSkp (x : Reg) (s : State) : Host.Outcome State Fault Refusal :=
  .next ((pressed s (s.reg x)).2.skipIf (pressed s (s.reg x)).1)

/-- SKNP Vx (R202). -/
def execSknp (x : Reg) (s : State) : Host.Outcome State Fault Refusal :=
  .next ((pressed s (s.reg x)).2.skipIf (!(pressed s (s.reg x)).1))

/-- LD Vx, K (R203): the lowest set key, or the pc goes back to the instruction's own address. -/
def execLdVxK (x : Reg) (s : State) : Host.Outcome State Fault Refusal :=
  match firstKey s with
  | some k => .next (s.setReg x (k.setWidth 8))
  | none => .next (s.setPc (s.pc - 2))

/-- LD Vx, DT (R204). -/
def execLdVxDt (x : Reg) (s : State) : Host.Outcome State Fault Refusal :=
  .next (s.setReg x s.dt)

/-- LD DT, Vx (R205). -/
def execLdDtVx (x : Reg) (s : State) : Host.Outcome State Fault Refusal :=
  .next (s.setDt (s.reg x))

/-- LD ST, Vx (R206). -/
def execLdStVx (x : Reg) (s : State) : Host.Outcome State Fault Refusal :=
  .next (s.setSt (s.reg x))

end Sys2Proof.Machine
end

