-- ==== Sys2Proof/Machine/Unrecognized.lean ====
section
/-!
DEFINITION. The unrecognized encodings (30_encoding.md R83): each is a no-op, and the fetch's advance
of the pc is the only effect of its Execute.
-/

namespace Sys2Proof.Machine

/-- The no-op of R83. -/
def noOp (s : State) : Host.Outcome State Fault Refusal := .next s

/-- 8XY8 (R83). -/
def execUnrec8XY8 (_x _y : Reg) (s : State) : Host.Outcome State Fault Refusal := noOp s

/-- 8XY9 (R83). -/
def execUnrec8XY9 (_x _y : Reg) (s : State) : Host.Outcome State Fault Refusal := noOp s

/-- 8XYA (R83). -/
def execUnrec8XYA (_x _y : Reg) (s : State) : Host.Outcome State Fault Refusal := noOp s

/-- 8XYB (R83). -/
def execUnrec8XYB (_x _y : Reg) (s : State) : Host.Outcome State Fault Refusal := noOp s

/-- 8XYC (R83). -/
def execUnrec8XYC (_x _y : Reg) (s : State) : Host.Outcome State Fault Refusal := noOp s

/-- 8XYD (R83). -/
def execUnrec8XYD (_x _y : Reg) (s : State) : Host.Outcome State Fault Refusal := noOp s

/-- 8XYF (R83). -/
def execUnrec8XYF (_x _y : Reg) (s : State) : Host.Outcome State Fault Refusal := noOp s

/-- EXKK where kk is not 0x9E or 0xA1 (R83). -/
def execUnrecEXKK (_x : Reg) (_kk : Byte) (s : State) : Host.Outcome State Fault Refusal := noOp s

/-- FXKK where kk is not one of the nine of R80 (R83). -/
def execUnrecFXKK (_x : Reg) (_kk : Byte) (s : State) : Host.Outcome State Fault Refusal := noOp s

end Sys2Proof.Machine
end

