-- ==== Sys2Proof/Syntax.lean ====
section
/-!
DEFINITION. The instructions: one constructor per row of spec/opcode_table.json (30_encoding.md
R85 and R83). A constructor holds every bit of the word that its row leaves open, those its rule
ignores among them, so that encoding it loses nothing.
-/

namespace Sys2Proof

/-- The operations of 30_encoding.md R85, in its order, then the unrecognized rows of R83. -/
inductive Instr where
  /-- 0NNN (not 00E0, 00EE): SYS nnn. -/
  | sys (nnn : Addr)
  /-- 00E0: CLS. -/
  | cls
  /-- 00EE: RET. -/
  | ret
  /-- 1NNN: JP nnn. -/
  | jp (nnn : Addr)
  /-- 2NNN: CALL nnn. -/
  | call (nnn : Addr)
  /-- 3XKK: SE Vx, kk. -/
  | seImm (x : Reg) (kk : Byte)
  /-- 4XKK: SNE Vx, kk. -/
  | sneImm (x : Reg) (kk : Byte)
  /-- 5XYN: SE Vx, Vy; `n` is ignored (R81). -/
  | seReg (x y : Reg) (n : Nibble)
  /-- 6XKK: LD Vx, kk. -/
  | ldImm (x : Reg) (kk : Byte)
  /-- 7XKK: ADD Vx, kk. -/
  | addImm (x : Reg) (kk : Byte)
  /-- 8XY0: LD Vx, Vy. -/
  | ldReg (x y : Reg)
  /-- 8XY1: OR Vx, Vy. -/
  | orReg (x y : Reg)
  /-- 8XY2: AND Vx, Vy. -/
  | andReg (x y : Reg)
  /-- 8XY3: XOR Vx, Vy. -/
  | xorReg (x y : Reg)
  /-- 8XY4: ADD Vx, Vy. -/
  | addReg (x y : Reg)
  /-- 8XY5: SUB Vx, Vy. -/
  | subReg (x y : Reg)
  /-- 8XY6: SHR Vx, Vy. -/
  | shrReg (x y : Reg)
  /-- 8XY7: SUBN Vx, Vy. -/
  | subnReg (x y : Reg)
  /-- 8XYE: SHL Vx, Vy. -/
  | shlReg (x y : Reg)
  /-- 9XYN: SNE Vx, Vy; `n` is ignored (R81). -/
  | sneReg (x y : Reg) (n : Nibble)
  /-- ANNN: LD I, nnn. -/
  | ldI (nnn : Addr)
  /-- BNNN: JP V0, nnn. -/
  | jpV0 (nnn : Addr)
  /-- CXKK: RND Vx, kk. -/
  | rnd (x : Reg) (kk : Byte)
  /-- DXYN: DRW Vx, Vy, n. -/
  | drw (x y : Reg) (n : Nibble)
  /-- EX9E: SKP Vx. -/
  | skp (x : Reg)
  /-- EXA1: SKNP Vx. -/
  | sknp (x : Reg)
  /-- FX07: LD Vx, DT. -/
  | ldVxDt (x : Reg)
  /-- FX0A: LD Vx, K. -/
  | ldVxK (x : Reg)
  /-- FX15: LD DT, Vx. -/
  | ldDtVx (x : Reg)
  /-- FX18: LD ST, Vx. -/
  | ldStVx (x : Reg)
  /-- FX1E: ADD I, Vx. -/
  | addIVx (x : Reg)
  /-- FX29: LD F, Vx. -/
  | ldFVx (x : Reg)
  /-- FX33: LD B, Vx. -/
  | ldBVx (x : Reg)
  /-- FX55: LD [I], Vx. -/
  | ldMemVx (x : Reg)
  /-- FX65: LD Vx, [I]. -/
  | ldVxMem (x : Reg)
  /-- 8XY8: unrecognized. -/
  | unrec8XY8 (x y : Reg)
  /-- 8XY9: unrecognized. -/
  | unrec8XY9 (x y : Reg)
  /-- 8XYA: unrecognized. -/
  | unrec8XYA (x y : Reg)
  /-- 8XYB: unrecognized. -/
  | unrec8XYB (x y : Reg)
  /-- 8XYC: unrecognized. -/
  | unrec8XYC (x y : Reg)
  /-- 8XYD: unrecognized. -/
  | unrec8XYD (x y : Reg)
  /-- 8XYF: unrecognized. -/
  | unrec8XYF (x y : Reg)
  /-- EXKK with kk not 9E or A1: unrecognized. -/
  | unrecEXKK (x : Reg) (kk : Byte)
  /-- FXKK with kk not one of the nine of R80: unrecognized. -/
  | unrecFXKK (x : Reg) (kk : Byte)
  deriving DecidableEq, Repr

end Sys2Proof
end

