-- ==== Sys2Proof/WellFormed.lean ====
section
/-!
DEFINITION. Which instructions are well formed: the fields' widths are in their types, so the
checks left are the words that a row of lower priority gives up to a row of higher priority
(30_encoding.md R77, R79, R80, R83).
-/

namespace Sys2Proof

/-- The class-0 words that are CLS and RET and not SYS (30_encoding.md R77). -/
def sysExcluded : List Addr := [0x0E0, 0x0EE]

/-- The sub-operations of class 0xE (30_encoding.md R79). -/
def classESubOps : List Byte := [0x9E, 0xA1]

/-- The sub-operations of class 0xF (30_encoding.md R80). -/
def classFSubOps : List Byte := [0x07, 0x0A, 0x15, 0x18, 0x1E, 0x29, 0x33, 0x55, 0x65]

/-- The instruction is the one its own word decodes to: it does not name a word that another
row of 30_encoding.md R85 takes first. -/
def WellFormed (i : Instr) : Bool :=
  match i with
  | .sys nnn => decide (nnn ∉ sysExcluded)
  | .unrecEXKK _ kk => decide (kk ∉ classESubOps)
  | .unrecFXKK _ kk => decide (kk ∉ classFSubOps)
  | .cls | .ret | .jp _ | .call _ | .seImm _ _ | .sneImm _ _ | .seReg _ _ _ | .ldImm _ _
  | .addImm _ _ | .ldReg _ _ | .orReg _ _ | .andReg _ _ | .xorReg _ _ | .addReg _ _
  | .subReg _ _ | .shrReg _ _ | .subnReg _ _ | .shlReg _ _ | .sneReg _ _ _ | .ldI _ | .jpV0 _
  | .rnd _ _ | .drw _ _ _ | .skp _ | .sknp _ | .ldVxDt _ | .ldVxK _ | .ldDtVx _ | .ldStVx _
  | .addIVx _ | .ldFVx _ | .ldBVx _ | .ldMemVx _ | .ldVxMem _ | .unrec8XY8 _ _
  | .unrec8XY9 _ _ | .unrec8XYA _ _ | .unrec8XYB _ _ | .unrec8XYC _ _ | .unrec8XYD _ _
  | .unrec8XYF _ _ => true

end Sys2Proof
end

