-- ==== Sys2Proof/Decode.lean ====
section
/-!
DEFINITION. The decoder and the encoder of 30_encoding.md: the fields (R71), the dispatch on the
class and the sub-operation (R76 to R83), the byte order of a word (20_memory.md R55), and the
words that the formats of R73 lay out.
-/

namespace Sys2Proof

/-! ### Fields (30_encoding.md R71) -/

/-- c = w[15:12], the operation class. -/
def fieldC (w : Word) : Nibble := w.extractLsb' 12 4

/-- x = w[11:8]. -/
def fieldX (w : Word) : Reg := w.extractLsb' 8 4

/-- y = w[7:4]. -/
def fieldY (w : Word) : Reg := w.extractLsb' 4 4

/-- n = w[3:0]. -/
def fieldN (w : Word) : Nibble := w.extractLsb' 0 4

/-- nnn = w[11:0]. -/
def fieldNnn (w : Word) : Addr := w.extractLsb' 0 12

/-- kk = w[7:0]. -/
def fieldKk (w : Word) : Byte := w.extractLsb' 0 8

/-! ### The decoder -/

/-- Class 0x0: sub-dispatch on the full word (R77). -/
def decodeClass0 (w : Word) : Instr :=
  if w = 0x00E0#16 then .cls
  else if w = 0x00EE#16 then .ret
  else .sys (fieldNnn w)

/-- Class 0x8: sub-dispatch on n (R78); the values no operation takes are the rows of R83. -/
def decodeClass8 (w : Word) : Instr :=
  match (fieldN w).toNat with
  | 0x0 => .ldReg (fieldX w) (fieldY w)
  | 0x1 => .orReg (fieldX w) (fieldY w)
  | 0x2 => .andReg (fieldX w) (fieldY w)
  | 0x3 => .xorReg (fieldX w) (fieldY w)
  | 0x4 => .addReg (fieldX w) (fieldY w)
  | 0x5 => .subReg (fieldX w) (fieldY w)
  | 0x6 => .shrReg (fieldX w) (fieldY w)
  | 0x7 => .subnReg (fieldX w) (fieldY w)
  | 0x8 => .unrec8XY8 (fieldX w) (fieldY w)
  | 0x9 => .unrec8XY9 (fieldX w) (fieldY w)
  | 0xA => .unrec8XYA (fieldX w) (fieldY w)
  | 0xB => .unrec8XYB (fieldX w) (fieldY w)
  | 0xC => .unrec8XYC (fieldX w) (fieldY w)
  | 0xD => .unrec8XYD (fieldX w) (fieldY w)
  | 0xE => .shlReg (fieldX w) (fieldY w)
  | _ => .unrec8XYF (fieldX w) (fieldY w)

/-- Class 0xE: sub-dispatch on kk (R79, R83). -/
def decodeClassE (w : Word) : Instr :=
  if fieldKk w = 0x9E#8 then .skp (fieldX w)
  else if fieldKk w = 0xA1#8 then .sknp (fieldX w)
  else .unrecEXKK (fieldX w) (fieldKk w)

/-- Class 0xF: sub-dispatch on kk (R80, R83). -/
def decodeClassF (w : Word) : Instr :=
  if fieldKk w = 0x07#8 then .ldVxDt (fieldX w)
  else if fieldKk w = 0x0A#8 then .ldVxK (fieldX w)
  else if fieldKk w = 0x15#8 then .ldDtVx (fieldX w)
  else if fieldKk w = 0x18#8 then .ldStVx (fieldX w)
  else if fieldKk w = 0x1E#8 then .addIVx (fieldX w)
  else if fieldKk w = 0x29#8 then .ldFVx (fieldX w)
  else if fieldKk w = 0x33#8 then .ldBVx (fieldX w)
  else if fieldKk w = 0x55#8 then .ldMemVx (fieldX w)
  else if fieldKk w = 0x65#8 then .ldVxMem (fieldX w)
  else .unrecFXKK (fieldX w) (fieldKk w)

/-- The decoder on a word: dispatch on the class (R76). Total: every word is an instruction (R84, R86). -/
def decodeWord (w : Word) : Instr :=
  match (fieldC w).toNat with
  | 0x0 => decodeClass0 w
  | 0x1 => .jp (fieldNnn w)
  | 0x2 => .call (fieldNnn w)
  | 0x3 => .seImm (fieldX w) (fieldKk w)
  | 0x4 => .sneImm (fieldX w) (fieldKk w)
  | 0x5 => .seReg (fieldX w) (fieldY w) (fieldN w)
  | 0x6 => .ldImm (fieldX w) (fieldKk w)
  | 0x7 => .addImm (fieldX w) (fieldKk w)
  | 0x8 => decodeClass8 w
  | 0x9 => .sneReg (fieldX w) (fieldY w) (fieldN w)
  | 0xA => .ldI (fieldNnn w)
  | 0xB => .jpV0 (fieldNnn w)
  | 0xC => .rnd (fieldX w) (fieldKk w)
  | 0xD => .drw (fieldX w) (fieldY w) (fieldN w)
  | 0xE => decodeClassE w
  | _ => decodeClassF w

/-- Two bytes as a word, the byte at the lower address high (20_memory.md R55, 00_scope.md R9). -/
def wordOfBytes (hi lo : Byte) : Word := hi ++ lo

/-- The high byte of a word, which lies at the lower address (20_memory.md R55). -/
def hiByte (w : Word) : Byte := w.extractLsb' 8 8

/-- The low byte of a word (20_memory.md R55). -/
def loByte (w : Word) : Byte := w.extractLsb' 0 8

/-- Why bytes are no instruction: an instruction is two bytes (30_encoding.md R70), and fewer are given. -/
inductive DecodeError where
  /-- Fewer than two bytes are given. -/
  | truncated
  deriving DecidableEq, Repr

/-- The decoder on bytes at ascending addresses: the instruction and the bytes after it. -/
def decode (bytes : List Byte) : Except DecodeError (Instr × List Byte) :=
  match bytes with
  | hi :: lo :: rest => .ok (decodeWord (wordOfBytes hi lo), rest)
  | _ => .error .truncated

/-- The instruction the decoder reads from the word whose bits, numbered as spec/opcode_table.json
numbers them, are the low `nbits` bits of `w`; the bits above are zero. -/
def decodeTableWord (nbits w : Nat) : Option Instr :=
  let word := BitVec.ofNat 16 (w % 2 ^ nbits)
  match decode [hiByte word, loByte word] with
  | .ok (i, _) => some i
  | .error _ => none

/-! ### The encoder -/

/-- Format A (R73): class and nnn. -/
def packA (c : Nibble) (nnn : Addr) : Word := c ++ nnn

/-- Formats XK and XS (R73): class, x and kk. -/
def packXK (c : Nibble) (x : Reg) (kk : Byte) : Word := c ++ x ++ kk

/-- Formats XY and XYN (R73): class, x, y and n. -/
def packXYN (c : Nibble) (x y : Reg) (n : Nibble) : Word := c ++ x ++ y ++ n

/-- The word of an instruction (30_encoding.md R85, R83). -/
def encode (i : Instr) : Word :=
  match i with
  | .sys nnn => packA 0x0 nnn
  | .cls => 0x00E0
  | .ret => 0x00EE
  | .jp nnn => packA 0x1 nnn
  | .call nnn => packA 0x2 nnn
  | .seImm x kk => packXK 0x3 x kk
  | .sneImm x kk => packXK 0x4 x kk
  | .seReg x y n => packXYN 0x5 x y n
  | .ldImm x kk => packXK 0x6 x kk
  | .addImm x kk => packXK 0x7 x kk
  | .ldReg x y => packXYN 0x8 x y 0x0
  | .orReg x y => packXYN 0x8 x y 0x1
  | .andReg x y => packXYN 0x8 x y 0x2
  | .xorReg x y => packXYN 0x8 x y 0x3
  | .addReg x y => packXYN 0x8 x y 0x4
  | .subReg x y => packXYN 0x8 x y 0x5
  | .shrReg x y => packXYN 0x8 x y 0x6
  | .subnReg x y => packXYN 0x8 x y 0x7
  | .shlReg x y => packXYN 0x8 x y 0xE
  | .sneReg x y n => packXYN 0x9 x y n
  | .ldI nnn => packA 0xA nnn
  | .jpV0 nnn => packA 0xB nnn
  | .rnd x kk => packXK 0xC x kk
  | .drw x y n => packXYN 0xD x y n
  | .skp x => packXK 0xE x 0x9E
  | .sknp x => packXK 0xE x 0xA1
  | .ldVxDt x => packXK 0xF x 0x07
  | .ldVxK x => packXK 0xF x 0x0A
  | .ldDtVx x => packXK 0xF x 0x15
  | .ldStVx x => packXK 0xF x 0x18
  | .addIVx x => packXK 0xF x 0x1E
  | .ldFVx x => packXK 0xF x 0x29
  | .ldBVx x => packXK 0xF x 0x33
  | .ldMemVx x => packXK 0xF x 0x55
  | .ldVxMem x => packXK 0xF x 0x65
  | .unrec8XY8 x y => packXYN 0x8 x y 0x8
  | .unrec8XY9 x y => packXYN 0x8 x y 0x9
  | .unrec8XYA x y => packXYN 0x8 x y 0xA
  | .unrec8XYB x y => packXYN 0x8 x y 0xB
  | .unrec8XYC x y => packXYN 0x8 x y 0xC
  | .unrec8XYD x y => packXYN 0x8 x y 0xD
  | .unrec8XYF x y => packXYN 0x8 x y 0xF
  | .unrecEXKK x kk => packXK 0xE x kk
  | .unrecFXKK x kk => packXK 0xF x kk

/-- The bytes of an instruction at ascending addresses (20_memory.md R55). -/
def encodeBytes (i : Instr) : List Byte := [hiByte (encode i), loByte (encode i)]

end Sys2Proof
end

