-- ==== Sys2Proof/Machine/Fetch.lean ====
section
/-!
DEFINITION. The fetch of 30_encoding.md R74: the word at the pc, the advance past it, and how a
word is laid where the next fetch reads it.
-/

namespace Sys2Proof.Machine

/-- `w <- MemRead(A, 1) << 8 | MemRead(A + 1, 1)` with A = pc (20_memory.md R55); each byte's address is
reduced on its own (20_memory.md R52). -/
def State.fetchWord (s : State) : Word :=
  wordOfBytes (s.memRead s.pc.toNat) (s.memRead (s.pc.toNat + 1))

/-- `pc <- A +_16 2`, before dispatch (30_encoding.md R74). -/
def State.advancePc (s : State) : State := s.setPc (s.pc + 2)

/-- The state with the word `w` where the next fetch reads it and no fault that would stop the fetch
(60_exceptions.md R223). -/
def State.placeWord (s : State) (w : Word) : State :=
  { (s.memWrite s.pc.toNat (hiByte w)).memWrite (s.pc.toNat + 1) (loByte w) with fault := .none }

end Sys2Proof.Machine
end

