-- ==== Sys2Proof/Machine/Step.lean ====
section
/-!
DEFINITION. One Execute (30_encoding.md R74), the step of the block.
-/

namespace Sys2Proof.Machine

/-- `Execute`: nothing while a fault is set (60_exceptions.md R223); else the word at the pc is fetched, the pc
moves past it, and the instruction the word decodes to is performed. -/
def step (s : State) : Host.Outcome State Fault Refusal :=
  if s.fault = .none then exec (decodeWord s.fetchWord) s.advancePc else .next s

/-- The state with the instruction whose word is the low `nbits` bits of `w` where the next step fetches it
(log 8). -/
def State.withFetchWord (s : State) (nbits w : Nat) : State :=
  s.placeWord (BitVec.ofNat 16 (w % 2 ^ nbits))

end Sys2Proof.Machine
end

