-- ==== Sys2Proof/Machine/Interface.lean ====
section
/-!
DEFINITION. The host's commands (60_exceptions.md R232): what each does to the state and what it
returns, and a schedule of them, any list of commands in the order the host issues them (R238;
decision D18, log 7).
-/

namespace Sys2Proof.Machine

/-! ### The commands but Execute -/

/-- A timer one tick later: one less, and no-op at zero (R229). -/
def tickDown (t : Byte) : Byte := if t = 0 then 0 else t - 1

/-- `TickTimers` (R229). -/
def State.tickTimers (s : State) : State := (s.setDt (tickDown s.dt)).setSt (tickDown s.st)

/-- `Reset` (70_reset_and_hazards.md R260): every element of the block's state at its reset value. The model's
counter of draws is no element of the block and keeps counting, so that the draws after a Reset are fresh (log 2). -/
def State.resetCommand (s : State) : State := { State.reset with draws := s.draws }

/-- What Load returns (70_reset_and_hazards.md R262). -/
inductive LoadResult where
  /-- The image was copied. -/
  | ok
  /-- The image is longer than 3584 bytes: nothing was copied. -/
  | romTooLarge
  deriving DecidableEq, Repr

/-- `Load(image)` (70_reset_and_hazards.md R262, R263): Reset, then the image at 0x200, or `RomTooLarge`. -/
def State.load (s : State) (image : List Byte) : LoadResult × State :=
  if image.length > Config.maxImage then (.romTooLarge, s.resetCommand)
  else (.ok, { s.resetCommand with mem := s.resetCommand.mem.writeList Config.programBase image })

/-- `IsSoundActive` (R230). -/
def State.isSoundActive (s : State) : Bool := decide (s.st > 0)

/-! ### Commands and responses -/

/-- A command of the host (R232). SetKey takes a 4-bit key number: an index above 15 is no command (R233;
decision D17). The draws of Execute are free values (log 1), so Execute takes none. -/
inductive Command where
  | execute
  | tickTimers
  | setKey (k : Nibble) (down : Bool)
  | reset
  | load (image : List Byte)
  | getFramebuffer
  | consumeDirtyFlag
  | isSoundActive
  | getFault
  deriving DecidableEq, Repr

/-- What a command returns (R232). -/
inductive Response where
  /-- Execute, TickTimers, SetKey and Reset return nothing. -/
  | nothing
  | loadResult (r : LoadResult)
  | framebuffer (fb : Grid)
  | dirtyFlag (b : Bool)
  | soundActive (b : Bool)
  | faultCode (f : FaultCode)
  deriving DecidableEq, Repr

/-- The state and the response after a command, or the stop of an Execute. -/
def State.command (s : State) (c : Command) : Host.Outcome (State × Response) Fault Refusal :=
  match c with
  | .execute =>
    match step s with
    | .next t => .next (t, .nothing)
    | .fault f => .fault f
    | .refused r => .refused r
  | .tickTimers => .next (s.tickTimers, .nothing)
  | .setKey k down => .next (s.setKey k down, .nothing)
  | .reset => .next (s.resetCommand, .nothing)
  | .load image => .next ((s.load image).2, .loadResult (s.load image).1)
  | .getFramebuffer => .next (s, .framebuffer s.fb)
  | .consumeDirtyFlag => .next (s.setDirty false, .dirtyFlag s.dirty)
  | .isSoundActive => .next (s, .soundActive s.isSoundActive)
  | .getFault => .next (s, .faultCode s.fault)

/-- A schedule: the commands one at a time, in the order the host issues them, and the responses in that order. -/
def State.schedule (s : State) : List Command → Host.Outcome (State × List Response) Fault Refusal
  | [] => .next (s, [])
  | c :: cs =>
    match s.command c with
    | .next (t, r) =>
      match t.schedule cs with
      | .next (u, rs) => .next (u, r :: rs)
      | .fault f => .fault f
      | .refused e => .refused e
    | .fault f => .fault f
    | .refused e => .refused e

end Sys2Proof.Machine
end

