-- ==== Sys2Proof/Safety.lean ====
section
/-!
DEFINITION. The terms that claims use: the parts of the state and what leaves them unchanged, which
parts each instruction may write (10_state.md R22, R38), the invariant of the block, and the words a
row of the opcode table takes.
-/

namespace Sys2Proof.Machine

/-! ### Frames -/

/-- The elements of 10_state.md R38, and the model's own counter of draws. -/
inductive Part where
  | regs | index | pc | sp | stack | dt | st | key | fb | dirty | fault | mem | draws
  deriving DecidableEq, Repr

/-- Two states agree on a part, as it is read: each register, each stack entry, each key, each pixel, each byte of
memory. -/
def Part.same (p : Part) (s t : State) : Prop :=
  match p with
  | .regs => ∀ r, t.reg r = s.reg r
  | .index => t.index = s.index
  | .pc => t.pc = s.pc
  | .sp => t.sp = s.sp
  | .stack => ∀ j : Fin 16, t.stack[j] = s.stack[j]
  | .dt => t.dt = s.dt
  | .st => t.st = s.st
  | .key => ∀ k, t.keyDown k = s.keyDown k
  | .fb => ∀ cx cy, t.pixel cx cy = s.pixel cx cy
  | .dirty => t.dirty = s.dirty
  | .fault => t.fault = s.fault
  | .mem => ∀ a, t.memRead a = s.memRead a
  | .draws => t.draws = s.draws

/-- Every part but the named ones is unchanged from `s` to `t`. -/
def UnchangedBut (written : List Part) (s t : State) : Prop :=
  ∀ p, p ∉ written → p.same s t

/-- The parts an instruction may write, after the fetch (the column "written by" of 10_state.md R38). -/
def writtenParts (i : Instr) : List Part :=
  match i with
  | .cls => [.fb, .dirty]
  | .ret => [.sp, .pc, .fault]
  | .call _ => [.stack, .sp, .pc, .fault]
  | .jp _ | .jpV0 _ | .seImm _ _ | .sneImm _ _ | .seReg _ _ _ | .sneReg _ _ _ => [.pc]
  | .skp _ | .sknp _ => [.pc, .draws]
  | .ldVxK _ => [.regs, .pc]
  | .ldImm _ _ | .addImm _ _ | .ldReg _ _ | .orReg _ _ | .andReg _ _ | .xorReg _ _
  | .addReg _ _ | .subReg _ _ | .shrReg _ _ | .subnReg _ _ | .shlReg _ _ | .ldVxDt _
  | .ldVxMem _ => [.regs]
  | .rnd _ _ => [.regs, .draws]
  | .drw _ _ _ => [.regs, .fb, .dirty]
  | .ldI _ | .addIVx _ | .ldFVx _ => [.index]
  | .ldDtVx _ => [.dt]
  | .ldStVx _ => [.st]
  | .ldBVx _ | .ldMemVx _ => [.mem]
  | .sys _ | .unrec8XY8 _ _ | .unrec8XY9 _ _ | .unrec8XYA _ _ | .unrec8XYB _ _
  | .unrec8XYC _ _ | .unrec8XYD _ _ | .unrec8XYF _ _ | .unrecEXKK _ _ | .unrecFXKK _ _ => []

/-- The general registers an instruction may write (10_state.md R22). -/
def mayWriteReg (i : Instr) (r : Reg) : Bool :=
  match i with
  | .ldImm x _ | .addImm x _ | .ldReg x _ | .orReg x _ | .andReg x _ | .xorReg x _ | .rnd x _
  | .ldVxDt x | .ldVxK x => r == x
  | .addReg x _ | .subReg x _ | .shrReg x _ | .subnReg x _ | .shlReg x _ => r == x || r == regF
  | .drw _ _ _ => r == regF
  | .ldVxMem x => decide (r ≤ x)
  | .sys _ | .cls | .ret | .jp _ | .call _ | .seImm _ _ | .sneImm _ _ | .seReg _ _ _
  | .sneReg _ _ _ | .ldI _ | .jpV0 _ | .skp _ | .sknp _ | .ldDtVx _ | .ldStVx _ | .addIVx _
  | .ldFVx _ | .ldBVx _ | .ldMemVx _ | .unrec8XY8 _ _ | .unrec8XY9 _ _ | .unrec8XYA _ _
  | .unrec8XYB _ _ | .unrec8XYC _ _ | .unrec8XYD _ _ | .unrec8XYF _ _ | .unrecEXKK _ _
  | .unrecFXKK _ _ => false

/-- The instructions and states for which an Execute reads one of its draws (30_encoding.md R74). -/
def readsDraw (i : Instr) (s : State) : Bool :=
  match i with
  | .rnd _ _ => true
  | .skp x | .sknp x => decide (s.reg x > 0xF)
  | .sys _ | .cls | .ret | .jp _ | .call _ | .seImm _ _ | .sneImm _ _ | .seReg _ _ _
  | .ldImm _ _ | .addImm _ _ | .ldReg _ _ | .orReg _ _ | .andReg _ _ | .xorReg _ _
  | .addReg _ _ | .subReg _ _ | .shrReg _ _ | .subnReg _ _ | .shlReg _ _ | .sneReg _ _ _
  | .ldI _ | .jpV0 _ | .drw _ _ _ | .ldVxDt _ | .ldVxK _ | .ldDtVx _ | .ldStVx _ | .addIVx _
  | .ldFVx _ | .ldBVx _ | .ldMemVx _ | .ldVxMem _ | .unrec8XY8 _ _ | .unrec8XY9 _ _
  | .unrec8XYA _ _ | .unrec8XYB _ _ | .unrec8XYC _ _ | .unrec8XYD _ _ | .unrec8XYF _ _
  | .unrecEXKK _ _ | .unrecFXKK _ _ => false

/-! ### The invariant of the block -/

/-- A set fault register is precise (60_exceptions.md R221, R222): the pc is at the CALL or RET that raised it, and
sp is where that instruction faults. -/
def FaultPrecise (s : State) : Prop :=
  match s.fault with
  | .none => True
  | .stackOverflow => s.sp = 16 ∧ ∃ nnn, decodeWord s.fetchWord = .call nnn
  | .stackUnderflow => s.sp = 0 ∧ decodeWord s.fetchWord = .ret

/-- What holds of every state the block reaches: the memory list is canonical, sp holds 0 to 16 (10_state.md R26),
and a fault is precise. -/
structure State.Inv (s : State) : Prop where
  memory : s.mem.wf
  stack : s.sp.toNat ≤ 16
  fault : FaultPrecise s

/-- Every element of the block's state has its reset value (10_state.md R36); memory holds `fontTable` and zeros
(R37). -/
structure HasResetValues (s : State) : Prop where
  regs : ∀ r, s.reg r = 0
  index : s.index = 0
  pc : s.pc = 0x200
  sp : s.sp = 0
  stack : ∀ j : Fin 16, s.stack[j] = 0
  timers : s.dt = 0 ∧ s.st = 0
  keys : ∀ k, s.keyDown k = false
  pixels : ∀ cx cy, s.pixel cx cy = false
  dirty : s.dirty = false
  fault : s.fault = .none
  font : ∀ (a : Nat) (h : a < fontTable.length), s.memRead a = fontTable[a]
  zeros : ∀ a, fontTable.length ≤ a → a < Config.memBytes → s.memRead a = 0

/-! ### Words and sprites -/

/-- A row of 30_encoding.md R85: every word with these fixed bits decodes to the instruction `f` makes of its fields. -/
def DecodesAs (pattern mask : Word) (f : Word → Instr) : Prop :=
  ∀ w : Word, w &&& mask = pattern → decodeWord w = f w

/-- A lit bit of the n-row sprite at I, drawn with its origin at column `ox` and row `oy`, falls on the cell
(44_display.md R180, R182). -/
def SpriteCovers (s : State) (ox oy n : Nat) (cx : Fin 64) (cy : Fin 32) : Prop :=
  ∃ r < n, ∃ c < 8, cx.val = ox + c ∧ cy.val = oy + r ∧
    (s.memRead (dataAddress s r)).getLsbD (7 - c) = true

end Sys2Proof.Machine
end

