-- ==== Sys2Proof/Certificates/Slice0/Obligations.lean ====
section
/-!
DEFINITION. The statements for the provers. Each docstring names the rule or the sections of spec/
that its statement formalises, and the decision of 92_eei_decisions.md and the log entry where a clause
rests on one. A statement about `exec` is about the state after the fetch: its pc is A + 2, A being
the instruction's address (30_encoding.md R74).
-/

open Sys2Proof Sys2Proof.Machine

/-! ### Fetch, decode and step -/

/-- 30_encoding.md R74: where no fault is set and the two bytes at the pc decode to an instruction, that
instruction is well formed, and a step moves the pc past its word and performs it. (The fault register is
decision D5, log 10; the 16-bit advance is D2, log 9.) -/
def Obligations.StepRunsDecodedInstruction : Prop :=
  ∀ (s : State) (i : Instr), s.fault = .none →
    decode [s.memRead s.pc.toNat, s.memRead (s.pc.toNat + 1)] = .ok (i, []) →
    WellFormed i = true ∧ step s = exec i (s.setPc (s.pc + 2))

/-- 20_memory.md R51, R52, R55: the fetched word is the byte at the pc, high, and the byte after it, low, each
address taken modulo 4096 on its own (decision D1, log 9). -/
def Obligations.FetchIsBigEndianAndWraps : Prop :=
  ∀ s : State, s.fetchWord.toNat =
    256 * (s.mem.read (s.pc.toNat % 4096)).toNat + (s.mem.read ((s.pc.toNat + 1) % 4096)).toNat

/-- A word laid at the pc is fetched and performed by the very next step, whatever the state before
(the model's stand-in for Load, log 8; byte order of 20_memory.md R55). -/
def Obligations.PlacedWordIsPerformedNext : Prop :=
  ∀ (s : State) (w : Word),
    (s.withFetchWord 16 w.toNat).fetchWord = w ∧
    step (s.withFetchWord 16 w.toNat) = exec (decodeWord w) (s.withFetchWord 16 w.toNat).advancePc

/-- 95_test_vectors.md E-1 to E-19: words written out there, and what they decode to. -/
def Obligations.SampleWordsDecode : Prop :=
  decodeWord 0x0000 = .sys 0x000 ∧ decodeWord 0x00E0 = .cls ∧ decodeWord 0x00EE = .ret ∧
  decodeWord 0x00E1 = .sys 0x0E1 ∧ decodeWord 0x1ABC = .jp 0xABC ∧
  decodeWord 0x5121 = .seReg 1 2 1 ∧ decodeWord 0x8AB8 = .unrec8XY8 0xA 0xB ∧
  decodeWord 0x8ABE = .shlReg 0xA 0xB ∧ decodeWord 0xE19E = .skp 1 ∧
  decodeWord 0xE19F = .unrecEXKK 1 0x9F ∧ decodeWord 0xF10A = .ldVxK 1 ∧
  decodeWord 0xF175 = .unrecFXKK 1 0x75 ∧ decodeWord 0xFF65 = .ldVxMem 0xF ∧
  decodeWord 0xD000 = .drw 0 0 0

/-- 30_encoding.md R73, R85: decoding the word of a well-formed instruction, or its bytes before any others,
gives the instruction back. -/
def Obligations.DecodeInvertsEncode : Prop :=
  ∀ i : Instr, WellFormed i = true →
    decodeWord (encode i) = i ∧
    ∀ rest : List Byte, decode (encodeBytes i ++ rest) = .ok (i, rest)

/-- 30_encoding.md R84, R86: every word decodes to a well-formed instruction, and encodes back to itself: no bit of
a word is dropped, and no two rows take one word. -/
def Obligations.EncodeInvertsDecode : Prop :=
  ∀ w : Word, WellFormed (decodeWord w) = true ∧ encode (decodeWord w) = w

/-- 30_encoding.md R74: an instruction that reads no draw ignores the draws: from two states that differ only in the
count of draws it goes to states that differ only in it. (The count is the model's, log 1.) -/
def Obligations.DrawsAreIgnoredByOtherInstructions : Prop :=
  ∀ (i : Instr) (s t : State) (n : Nat), readsDraw i s = false → exec i s = .next t →
    t.draws = s.draws ∧ exec i { s with draws := n } = .next { t with draws := n }

/-! ### No-ops -/

/-- 41_control_flow.md R102: every class-0 word but 00E0 and 00EE is SYS, and SYS changes nothing after the fetch. -/
def Obligations.SysIsNoOp : Prop :=
  (∀ w : Word, w &&& 0xF000 = 0x0000 → w ≠ 0x00E0 → w ≠ 0x00EE →
    decodeWord w = .sys (fieldNnn w)) ∧
  ∀ (nnn : Addr) (s : State), exec (.sys nnn) s = .next s

/-- 30_encoding.md R83: the words of its table are the unrecognized rows, and each changes nothing after the
fetch. -/
def Obligations.UnrecognizedWordsAreNoOps : Prop :=
  DecodesAs 0x8008 0xF00F (fun w => .unrec8XY8 (fieldX w) (fieldY w)) ∧
  DecodesAs 0x8009 0xF00F (fun w => .unrec8XY9 (fieldX w) (fieldY w)) ∧
  DecodesAs 0x800A 0xF00F (fun w => .unrec8XYA (fieldX w) (fieldY w)) ∧
  DecodesAs 0x800B 0xF00F (fun w => .unrec8XYB (fieldX w) (fieldY w)) ∧
  DecodesAs 0x800C 0xF00F (fun w => .unrec8XYC (fieldX w) (fieldY w)) ∧
  DecodesAs 0x800D 0xF00F (fun w => .unrec8XYD (fieldX w) (fieldY w)) ∧
  DecodesAs 0x800F 0xF00F (fun w => .unrec8XYF (fieldX w) (fieldY w)) ∧
  (∀ w : Word, w &&& 0xF000 = 0xE000 → fieldKk w ≠ 0x9E → fieldKk w ≠ 0xA1 →
    decodeWord w = .unrecEXKK (fieldX w) (fieldKk w)) ∧
  (∀ w : Word, w &&& 0xF000 = 0xF000 → fieldKk w ≠ 0x07 → fieldKk w ≠ 0x0A →
    fieldKk w ≠ 0x15 → fieldKk w ≠ 0x18 → fieldKk w ≠ 0x1E → fieldKk w ≠ 0x29 →
    fieldKk w ≠ 0x33 → fieldKk w ≠ 0x55 → fieldKk w ≠ 0x65 →
    decodeWord w = .unrecFXKK (fieldX w) (fieldKk w)) ∧
  ∀ (x y : Reg) (kk : Byte) (s : State),
    exec (.unrec8XY8 x y) s = .next s ∧ exec (.unrec8XY9 x y) s = .next s ∧
    exec (.unrec8XYA x y) s = .next s ∧ exec (.unrec8XYB x y) s = .next s ∧
    exec (.unrec8XYC x y) s = .next s ∧ exec (.unrec8XYD x y) s = .next s ∧
    exec (.unrec8XYF x y) s = .next s ∧ exec (.unrecEXKK x kk) s = .next s ∧
    exec (.unrecFXKK x kk) s = .next s

/-! ### Control transfer -/

/-- 41_control_flow.md R104: JP puts its address in the pc and changes nothing else. -/
def Obligations.JpSetsPc : Prop :=
  DecodesAs 0x1000 0xF000 (fun w => .jp (fieldNnn w)) ∧
  ∀ (nnn : Addr) (s : State), ∃ t, exec (.jp nnn) s = .next t ∧
    t.pc.toNat = nnn.toNat ∧ UnchangedBut [.pc] s t

/-- 41_control_flow.md R110: JP V0 puts the sum of its address and V0 in the pc, not reduced to 12 bits
(decision D1, log 9). -/
def Obligations.JpV0AddsV0 : Prop :=
  DecodesAs 0xB000 0xF000 (fun w => .jpV0 (fieldNnn w)) ∧
  ∀ (nnn : Addr) (s : State), ∃ t, exec (.jpV0 nnn) s = .next t ∧
    t.pc.toNat = nnn.toNat + (s.reg 0).toNat ∧ UnchangedBut [.pc] s t

/-- 41_control_flow.md R105: CALL with sp below 16 pushes the address after it, and goes to its address; with sp = 16 it
takes StackOverflow (decision D3, log 10), with nothing written but the pc, which holds the CALL's own address, and
the fault register. The last clause is the model's stop in states the spec says do not arise (log 6). -/
def Obligations.CallPushesReturnAddress : Prop :=
  DecodesAs 0x2000 0xF000 (fun w => .call (fieldNnn w)) ∧
  ∀ (nnn : Addr) (s : State),
    (∀ h : s.sp.toNat < 16, ∃ t, exec (.call nnn) s = .next t ∧
      t.stack[s.sp.toNat] = s.pc ∧ t.sp.toNat = s.sp.toNat + 1 ∧ t.pc.toNat = nnn.toNat ∧
      (∀ j : Fin 16, j.val ≠ s.sp.toNat → t.stack[j] = s.stack[j]) ∧
      UnchangedBut [.pc, .sp, .stack] s t) ∧
    (s.sp.toNat = 16 → ∃ t, exec (.call nnn) s = .next t ∧
      t.fault = .stackOverflow ∧ t.pc = s.pc - 2 ∧ UnchangedBut [.pc, .fault] s t) ∧
    (16 < s.sp.toNat → exec (.call nnn) s = .fault .stackIndexOutOfRange)

/-- 41_control_flow.md R103: RET with sp from 1 to 16 takes the newest return address, whose entry keeps its value
(decision D22, log 17); with sp = 0 it takes StackUnderflow (decision D4, log 10). The last clause is the model's stop
in states the spec says do not arise (log 6). -/
def Obligations.RetPopsReturnAddress : Prop :=
  DecodesAs 0x00EE 0xFFFF (fun _ => .ret) ∧
  ∀ s : State,
    (∀ h : 0 < s.sp.toNat ∧ s.sp.toNat ≤ 16, ∃ t, exec .ret s = .next t ∧
      t.pc = s.stack[s.sp.toNat - 1] ∧ t.sp.toNat = s.sp.toNat - 1 ∧
      UnchangedBut [.pc, .sp] s t) ∧
    (s.sp.toNat = 0 → ∃ t, exec .ret s = .next t ∧
      t.fault = .stackUnderflow ∧ t.pc = s.pc - 2 ∧ UnchangedBut [.pc, .fault] s t) ∧
    (16 < s.sp.toNat → exec .ret s = .fault .stackIndexOutOfRange)

/-- 41_control_flow.md R106, R107: SE and SNE with an immediate move the pc past the next word exactly when the register
is, or is not, the immediate. (The sum is a 16-bit one, decision D2, log 9.) -/
def Obligations.ImmediateSkipsTestRegister : Prop :=
  DecodesAs 0x3000 0xF000 (fun w => .seImm (fieldX w) (fieldKk w)) ∧
  DecodesAs 0x4000 0xF000 (fun w => .sneImm (fieldX w) (fieldKk w)) ∧
  ∀ (x : Reg) (kk : Byte) (s : State),
    (∃ t, exec (.seImm x kk) s = .next t ∧
      t.pc = (if s.reg x = kk then s.pc + 2 else s.pc) ∧ UnchangedBut [.pc] s t) ∧
    (∃ t, exec (.sneImm x kk) s = .next t ∧
      t.pc = (if s.reg x = kk then s.pc else s.pc + 2) ∧ UnchangedBut [.pc] s t)

/-- 41_control_flow.md R108, R109: SE and SNE of two registers skip exactly when the registers are equal, or differ,
whatever the ignored nibble n is (decision D9, log 12; the 16-bit sum is D2, log 9). -/
def Obligations.RegisterSkipsCompareRegisters : Prop :=
  DecodesAs 0x5000 0xF000 (fun w => .seReg (fieldX w) (fieldY w) (fieldN w)) ∧
  DecodesAs 0x9000 0xF000 (fun w => .sneReg (fieldX w) (fieldY w) (fieldN w)) ∧
  ∀ (x y : Reg) (n : Nibble) (s : State),
    (∃ t, exec (.seReg x y n) s = .next t ∧
      t.pc = (if s.reg x = s.reg y then s.pc + 2 else s.pc) ∧ UnchangedBut [.pc] s t) ∧
    (∃ t, exec (.sneReg x y n) s = .next t ∧
      t.pc = (if s.reg x = s.reg y then s.pc else s.pc + 2) ∧ UnchangedBut [.pc] s t)

/-! ### Loads, arithmetic and logic -/

/-- 42_arithmetic.md R132: LD Vx, kk. -/
def Obligations.LdImmediateWritesRegister : Prop :=
  DecodesAs 0x6000 0xF000 (fun w => .ldImm (fieldX w) (fieldKk w)) ∧
  ∀ (x : Reg) (kk : Byte) (s : State), ∃ t, exec (.ldImm x kk) s = .next t ∧
    t.reg x = kk ∧ (∀ r, r ≠ x → t.reg r = s.reg r) ∧ UnchangedBut [.regs] s t

/-- 42_arithmetic.md R133: ADD Vx, kk adds modulo 256 and writes no other register, VF among them. -/
def Obligations.AddImmediateWrapsWithoutFlag : Prop :=
  DecodesAs 0x7000 0xF000 (fun w => .addImm (fieldX w) (fieldKk w)) ∧
  ∀ (x : Reg) (kk : Byte) (s : State), ∃ t, exec (.addImm x kk) s = .next t ∧
    (t.reg x).toNat = ((s.reg x).toNat + kk.toNat) % 256 ∧
    (∀ r, r ≠ x → t.reg r = s.reg r) ∧ UnchangedBut [.regs] s t

/-- 42_arithmetic.md R134: LD Vx, Vy. -/
def Obligations.LdRegisterCopies : Prop :=
  DecodesAs 0x8000 0xF00F (fun w => .ldReg (fieldX w) (fieldY w)) ∧
  ∀ (x y : Reg) (s : State), ∃ t, exec (.ldReg x y) s = .next t ∧
    t.reg x = s.reg y ∧ (∀ r, r ≠ x → t.reg r = s.reg r) ∧ UnchangedBut [.regs] s t

/-- 42_arithmetic.md R135, R136, R137: OR, AND and XOR act bit by bit, and write no flag. -/
def Obligations.LogicActsBitwiseWithoutFlag : Prop :=
  DecodesAs 0x8001 0xF00F (fun w => .orReg (fieldX w) (fieldY w)) ∧
  DecodesAs 0x8002 0xF00F (fun w => .andReg (fieldX w) (fieldY w)) ∧
  DecodesAs 0x8003 0xF00F (fun w => .xorReg (fieldX w) (fieldY w)) ∧
  ∀ (x y : Reg) (s : State),
    (∃ t, exec (.orReg x y) s = .next t ∧
      (∀ b, (t.reg x).getLsbD b = ((s.reg x).getLsbD b || (s.reg y).getLsbD b)) ∧
      (∀ r, r ≠ x → t.reg r = s.reg r) ∧ UnchangedBut [.regs] s t) ∧
    (∃ t, exec (.andReg x y) s = .next t ∧
      (∀ b, (t.reg x).getLsbD b = ((s.reg x).getLsbD b && (s.reg y).getLsbD b)) ∧
      (∀ r, r ≠ x → t.reg r = s.reg r) ∧ UnchangedBut [.regs] s t) ∧
    (∃ t, exec (.xorReg x y) s = .next t ∧
      (∀ b, (t.reg x).getLsbD b = ((s.reg x).getLsbD b ^^ (s.reg y).getLsbD b)) ∧
      (∀ r, r ≠ x → t.reg r = s.reg r) ∧ UnchangedBut [.regs] s t)

/-- 42_arithmetic.md R138: ADD Vx, Vy leaves the sum modulo 256 in Vx, VF itself among them, and the carry in VF where
VF is not Vx. -/
def Obligations.AddRegisterSetsCarry : Prop :=
  DecodesAs 0x8004 0xF00F (fun w => .addReg (fieldX w) (fieldY w)) ∧
  ∀ (x y : Reg) (s : State), ∃ t, exec (.addReg x y) s = .next t ∧
    (t.reg x).toNat = ((s.reg x).toNat + (s.reg y).toNat) % 256 ∧
    (x ≠ regF → t.reg regF = if (s.reg x).toNat + (s.reg y).toNat > 255 then 1 else 0) ∧
    (∀ r, r ≠ x → r ≠ regF → t.reg r = s.reg r) ∧ UnchangedBut [.regs] s t

/-- 42_arithmetic.md R139: SUB sets VF where Vx is strictly greater than Vy, and then subtracts the registers as that
write left them: an operand that is VF is the new flag (decision D6, log 11). -/
def Obligations.SubSetsStrictGreaterFlag : Prop :=
  DecodesAs 0x8005 0xF00F (fun w => .subReg (fieldX w) (fieldY w)) ∧
  ∀ (x y : Reg) (s : State) (flag a b : Byte),
    flag = (if (s.reg x).toNat > (s.reg y).toNat then 1 else 0) →
    a = (if x = regF then flag else s.reg x) → b = (if y = regF then flag else s.reg y) →
    ∃ t, exec (.subReg x y) s = .next t ∧
      (t.reg x).toNat = (256 + a.toNat - b.toNat) % 256 ∧ (x ≠ regF → t.reg regF = flag) ∧
      (∀ r, r ≠ x → r ≠ regF → t.reg r = s.reg r) ∧ UnchangedBut [.regs] s t

/-- 42_arithmetic.md R141: SUBN, the same with the operands the other way round (decision D6, log 11). -/
def Obligations.SubnSetsStrictGreaterFlag : Prop :=
  DecodesAs 0x8007 0xF00F (fun w => .subnReg (fieldX w) (fieldY w)) ∧
  ∀ (x y : Reg) (s : State) (flag a b : Byte),
    flag = (if (s.reg y).toNat > (s.reg x).toNat then 1 else 0) →
    a = (if x = regF then flag else s.reg x) → b = (if y = regF then flag else s.reg y) →
    ∃ t, exec (.subnReg x y) s = .next t ∧
      (t.reg x).toNat = (256 + b.toNat - a.toNat) % 256 ∧ (x ≠ regF → t.reg regF = flag) ∧
      (∀ r, r ≠ x → r ≠ regF → t.reg r = s.reg r) ∧ UnchangedBut [.regs] s t

/-- 42_arithmetic.md R140, R142: SHR and SHL put the bit they shift out in VF, and then shift Vy as that write left it
into Vx: a Vy that is VF is the new flag (decision D6, log 11). Vx's old value is not read. -/
def Obligations.ShiftsMoveVyAndSetFlag : Prop :=
  DecodesAs 0x8006 0xF00F (fun w => .shrReg (fieldX w) (fieldY w)) ∧
  DecodesAs 0x800E 0xF00F (fun w => .shlReg (fieldX w) (fieldY w)) ∧
  ∀ (x y : Reg) (s : State) (low high b c : Byte),
    low.toNat = (s.reg y).toNat % 2 → high.toNat = (s.reg y).toNat / 128 →
    b = (if y = regF then low else s.reg y) → c = (if y = regF then high else s.reg y) →
    (∃ t, exec (.shrReg x y) s = .next t ∧
      (t.reg x).toNat = b.toNat / 2 ∧ (x ≠ regF → t.reg regF = low) ∧
      (∀ r, r ≠ x → r ≠ regF → t.reg r = s.reg r) ∧ UnchangedBut [.regs] s t) ∧
    (∃ t, exec (.shlReg x y) s = .next t ∧
      (t.reg x).toNat = 2 * c.toNat % 256 ∧ (x ≠ regF → t.reg regF = high) ∧
      (∀ r, r ≠ x → r ≠ regF → t.reg r = s.reg r) ∧ UnchangedBut [.regs] s t)

/-- 42_arithmetic.md R143: RND leaves the next draw, masked, in Vx, so a bit that is 0 in kk is 0 there under every draw.
The draw is a free value: the statement holds for every value of `Config.rnd` (decision D7, log 1). -/
def Obligations.RndMasksDraw : Prop :=
  DecodesAs 0xC000 0xF000 (fun w => .rnd (fieldX w) (fieldKk w)) ∧
  ∀ (x : Reg) (kk : Byte) (s : State), ∃ t, exec (.rnd x kk) s = .next t ∧
    t.reg x = Config.rnd s.draws &&& kk ∧
    (∀ b, kk.getLsbD b = false → (t.reg x).getLsbD b = false) ∧
    t.draws = s.draws + 1 ∧ (∀ r, r ≠ x → t.reg r = s.reg r) ∧
    UnchangedBut [.regs, .draws] s t

/-! ### Index register and memory transfer -/

/-- 43_index_memory.md R161: LD I, nnn. -/
def Obligations.LdIndexWritesAddress : Prop :=
  DecodesAs 0xA000 0xF000 (fun w => .ldI (fieldNnn w)) ∧
  ∀ (nnn : Addr) (s : State), ∃ t, exec (.ldI nnn) s = .next t ∧
    t.index.toNat = nnn.toNat ∧ UnchangedBut [.index] s t

/-- 43_index_memory.md R162, R163: ADD I adds modulo 65536 and writes no flag (decision D2, log 9); LD F leaves five times
the whole register (decision D15, log 16). -/
def Obligations.IndexArithmeticWritesNoFlag : Prop :=
  DecodesAs 0xF01E 0xF0FF (fun w => .addIVx (fieldX w)) ∧
  DecodesAs 0xF029 0xF0FF (fun w => .ldFVx (fieldX w)) ∧
  ∀ (x : Reg) (s : State),
    (∃ t, exec (.addIVx x) s = .next t ∧
      t.index.toNat = (s.index.toNat + (s.reg x).toNat) % 65536 ∧ UnchangedBut [.index] s t) ∧
    (∃ t, exec (.ldFVx x) s = .next t ∧
      t.index.toNat = 5 * (s.reg x).toNat ∧ UnchangedBut [.index] s t)

/-- 43_index_memory.md R164: LD B stores the hundreds, tens and ones of Vx at I, I + 1 and I + 2, each address taken modulo
4096 (decision D1, log 9), and every other byte is as before. -/
def Obligations.LdBStoresDecimalDigits : Prop :=
  DecodesAs 0xF033 0xF0FF (fun w => .ldBVx (fieldX w)) ∧
  ∀ (x : Reg) (s : State), ∃ t, exec (.ldBVx x) s = .next t ∧
    (t.memRead (dataAddress s 0)).toNat = (s.reg x).toNat / 100 ∧
    (t.memRead (dataAddress s 1)).toNat = (s.reg x).toNat / 10 % 10 ∧
    (t.memRead (dataAddress s 2)).toNat = (s.reg x).toNat % 10 ∧
    (∀ a, (∀ k < 3, busAddress a ≠ busAddress (dataAddress s k)) → t.memRead a = s.memRead a) ∧
    UnchangedBut [.mem] s t

/-- 43_index_memory.md R165: LD [I], Vx stores V0 to Vx at I on, each address taken modulo 4096 (decision D1, log 9), leaves
every other byte, and leaves I (decision D14, log 15). -/
def Obligations.BlockStoreWritesRegisters : Prop :=
  DecodesAs 0xF055 0xF0FF (fun w => .ldMemVx (fieldX w)) ∧
  ∀ (x : Reg) (s : State), ∃ t, exec (.ldMemVx x) s = .next t ∧
    (∀ r, r ≤ x → t.memRead (dataAddress s r.toNat) = s.reg r) ∧
    (∀ a, (∀ k ≤ x.toNat, busAddress a ≠ busAddress (dataAddress s k)) →
      t.memRead a = s.memRead a) ∧
    UnchangedBut [.mem] s t

/-- 43_index_memory.md R166: LD Vx, [I] loads V0 to Vx from I on, leaves the registers above x and leaves I
(decision D14, log 15); addresses are taken modulo 4096 by the read (decision D1, log 9). -/
def Obligations.BlockLoadReadsRegisters : Prop :=
  DecodesAs 0xF065 0xF0FF (fun w => .ldVxMem (fieldX w)) ∧
  ∀ (x : Reg) (s : State), ∃ t, exec (.ldVxMem x) s = .next t ∧
    (∀ r, r ≤ x → t.reg r = s.memRead (dataAddress s r.toNat)) ∧
    (∀ r, x < r → t.reg r = s.reg r) ∧ UnchangedBut [.regs] s t

/-- 43_index_memory.md R166, 95_test_vectors.md S9: what LD [I], Vx stored, LD Vx, [I] restores from any state with the same I
and memory, whatever its registers hold. -/
def Obligations.BlockStoreThenLoadRestores : Prop :=
  ∀ (x : Reg) (s : State), ∃ t, exec (.ldMemVx x) s = .next t ∧
    ∀ u : State, u.index = t.index → Part.same .mem t u →
      ∃ w, exec (.ldVxMem x) u = .next w ∧ ∀ r, r ≤ x → w.reg r = s.reg r

/-- 20_memory.md R63: the two bytes a block store leaves side by side are the word of a later fetch at their address: a
store into code takes effect at the next fetch (decision D20, log 18). -/
def Obligations.StoredCodeIsFetched : Prop :=
  ∀ (x : Reg) (s : State), ∃ t, exec (.ldMemVx x) s = .next t ∧
    ∀ (u : State) (r : Reg), r < x → Part.same .mem t u →
      busAddress u.pc.toNat = busAddress (dataAddress s r.toNat) →
      u.fetchWord = wordOfBytes (s.reg r) (s.reg (r + 1))

/-! ### Display -/

/-- 44_display.md R181: CLS turns every pixel off and sets the dirty flag, and changes nothing else, VF among it. -/
def Obligations.ClsClearsAndSetsDirty : Prop :=
  DecodesAs 0x00E0 0xFFFF (fun _ => .cls) ∧
  ∀ s : State, ∃ t, exec .cls s = .next t ∧
    (∀ cx cy, t.pixel cx cy = false) ∧ t.dirty = true ∧ UnchangedBut [.fb, .dirty] s t

/-- 44_display.md R182: DRW inverts exactly the cells that a lit bit of the sprite falls on, the origin taken modulo 64 and 32
before VF is written (decision D6, log 11), column 0 being bit 7 (decisions D11 and D12, log 13), the sprite's bytes at I on with each
address taken modulo 4096 (decision D1, log 9), pixels off the grid clipped; VF is 1 where a lit cell goes off, else 0; the
dirty flag is set always. -/
def Obligations.DrwXorsClippedSprite : Prop :=
  DecodesAs 0xD000 0xF000 (fun w => .drw (fieldX w) (fieldY w) (fieldN w)) ∧
  ∀ (x y : Reg) (n : Nibble) (s : State) (ox oy : Nat),
    ox = (s.reg x).toNat % 64 → oy = (s.reg y).toNat % 32 →
    ∃ t, exec (.drw x y n) s = .next t ∧
      (∀ cx cy, SpriteCovers s ox oy n.toNat cx cy → t.pixel cx cy = !s.pixel cx cy) ∧
      (∀ cx cy, ¬ SpriteCovers s ox oy n.toNat cx cy → t.pixel cx cy = s.pixel cx cy) ∧
      ((∃ cx cy, SpriteCovers s ox oy n.toNat cx cy ∧ s.pixel cx cy = true) → t.reg regF = 1) ∧
      ((¬ ∃ cx cy, SpriteCovers s ox oy n.toNat cx cy ∧ s.pixel cx cy = true) →
        t.reg regF = 0) ∧
      t.dirty = true ∧ (∀ r, r ≠ regF → t.reg r = s.reg r) ∧
      UnchangedBut [.regs, .fb, .dirty] s t

/-- 44_display.md R182, its pseudocode: drawing one sprite twice at one place, its coordinates not in VF, restores every
pixel; and if some lit bit of the sprite is visible, one of the two draws reports a collision, the second where the cell was
off before the first. Which cells those are rests on the bit order and the coordinates of decisions D11 and D12 (log 13) and
the addresses of decision D1 (log 9). A corner case of R182 says that the second draw always reports VF = 1; that the
pseudocode is followed, and not that remark, is the model's choice (log 19). -/
def Obligations.DrwTwiceRestoresFramebuffer : Prop :=
  ∀ (x y : Reg) (n : Nibble) (s : State), x ≠ regF → y ≠ regF →
    ∃ t u, exec (.drw x y n) s = .next t ∧ exec (.drw x y n) t = .next u ∧
      (∀ cx cy, u.pixel cx cy = s.pixel cx cy) ∧
      ∀ cx cy, SpriteCovers s ((s.reg x).toNat % 64) ((s.reg y).toNat % 32) n.toNat cx cy →
        if s.pixel cx cy = true then t.reg regF = 1 else u.reg regF = 1

/-- 44_display.md R182, its pseudocode: the same for every form, VF as a coordinate among them: a sprite drawn again from any
state with the pixels, I and memory the first draw left, through any registers that give the same origin, restores every
pixel, and one of the two draws reports a collision at each visible lit bit. The origin is read before VF is written
(decision D6, log 11); which cells those are rests on decisions D11 and D12 (log 13) and D1 (log 9); that the pseudocode is
followed, and not R182's remark on the second draw, is the model's choice (log 19). -/
def Obligations.RedrawAtSameOriginRestoresFramebuffer : Prop :=
  ∀ (x y x' y' : Reg) (n : Nibble) (s : State), ∃ t, exec (.drw x y n) s = .next t ∧
    ∀ w : State, w.index = t.index → Part.same .mem t w → Part.same .fb t w →
      (w.reg x').toNat % 64 = (s.reg x).toNat % 64 →
      (w.reg y').toNat % 32 = (s.reg y).toNat % 32 →
      ∃ u, exec (.drw x' y' n) w = .next u ∧ (∀ cx cy, u.pixel cx cy = s.pixel cx cy) ∧
        ∀ cx cy,
          SpriteCovers s ((s.reg x).toNat % 64) ((s.reg y).toNat % 32) n.toNat cx cy →
          if s.pixel cx cy = true then t.reg regF = 1 else u.reg regF = 1

/-! ### Keys and timers -/

/-- 45_input_timers.md R200, R201, R202: SKP and SKNP with a key number in Vx skip on the level of that key; with a number
above 0xF the outcome is the next draw, a free value: the statement holds for every value of `Config.keyOob`
(decision D8, log 1; the 16-bit sum is D2, log 9). -/
def Obligations.KeySkipsTestLatch : Prop :=
  DecodesAs 0xE09E 0xF0FF (fun w => .skp (fieldX w)) ∧
  DecodesAs 0xE0A1 0xF0FF (fun w => .sknp (fieldX w)) ∧
  ∀ (x : Reg) (s : State),
    (∀ k : Nibble, (s.reg x).toNat = k.toNat →
      (∃ t, exec (.skp x) s = .next t ∧
        t.pc = (if s.keyDown k = true then s.pc + 2 else s.pc) ∧ UnchangedBut [.pc] s t) ∧
      (∃ t, exec (.sknp x) s = .next t ∧
        t.pc = (if s.keyDown k = true then s.pc else s.pc + 2) ∧ UnchangedBut [.pc] s t)) ∧
    (15 < (s.reg x).toNat →
      (∃ t, exec (.skp x) s = .next t ∧
        t.pc = (if Config.keyOob s.draws = true then s.pc + 2 else s.pc) ∧
        t.draws = s.draws + 1 ∧ UnchangedBut [.pc, .draws] s t) ∧
      (∃ t, exec (.sknp x) s = .next t ∧
        t.pc = (if Config.keyOob s.draws = true then s.pc else s.pc + 2) ∧
        t.draws = s.draws + 1 ∧ UnchangedBut [.pc, .draws] s t))

/-- 45_input_timers.md R203: LD Vx, K with a key set leaves the lowest one's number in Vx; with none set it takes the pc back
to its own address, so that a step which fetched it changes nothing at all. -/
def Obligations.KeyWaitScansOrRewinds : Prop :=
  DecodesAs 0xF00A 0xF0FF (fun w => .ldVxK (fieldX w)) ∧
  ∀ (x : Reg) (s : State),
    (∀ k : Nibble, s.keyDown k = true → (∀ j, j < k → s.keyDown j = false) →
      ∃ t, exec (.ldVxK x) s = .next t ∧ (t.reg x).toNat = k.toNat ∧
        (∀ r, r ≠ x → t.reg r = s.reg r) ∧ UnchangedBut [.regs] s t) ∧
    ((∀ k, s.keyDown k = false) →
      (∃ t, exec (.ldVxK x) s = .next t ∧ t.pc = s.pc - 2 ∧ UnchangedBut [.pc] s t) ∧
      (s.fault = .none → decodeWord s.fetchWord = .ldVxK x → step s = .next s))

/-- 45_input_timers.md R204, R205, R206: FX07 reads DT, FX15 writes DT, FX18 writes ST (decision D13, log 14). -/
def Obligations.TimerTransfers : Prop :=
  DecodesAs 0xF007 0xF0FF (fun w => .ldVxDt (fieldX w)) ∧
  DecodesAs 0xF015 0xF0FF (fun w => .ldDtVx (fieldX w)) ∧
  DecodesAs 0xF018 0xF0FF (fun w => .ldStVx (fieldX w)) ∧
  ∀ (x : Reg) (s : State),
    (∃ t, exec (.ldVxDt x) s = .next t ∧ t.reg x = s.dt ∧
      (∀ r, r ≠ x → t.reg r = s.reg r) ∧ UnchangedBut [.regs] s t) ∧
    (∃ t, exec (.ldDtVx x) s = .next t ∧ t.dt = s.reg x ∧ UnchangedBut [.dt] s t) ∧
    (∃ t, exec (.ldStVx x) s = .next t ∧ t.st = s.reg x ∧ UnchangedBut [.st] s t)

/-! ### Faults -/

/-- 60_exceptions.md R222: a step that takes a stack fault leaves every element of the state as it was, the pc at the
instruction's own address among them, and writes the fault register (decisions D3, D4, D5, log 10). -/
def Obligations.StackFaultEntryIsPrecise : Prop :=
  ∀ s : State, s.fault = .none →
    (∀ nnn, decodeWord s.fetchWord = .call nnn → s.sp.toNat = 16 →
      step s = .next { s with fault := .stackOverflow }) ∧
    (decodeWord s.fetchWord = .ret → s.sp.toNat = 0 →
      step s = .next { s with fault := .stackUnderflow })

/-- 60_exceptions.md R220, R221: a step of an unfaulted block sets the fault register only for a CALL with sp = 16 or a RET
with sp = 0 (decisions D3, D4, log 10). -/
def Obligations.FaultsComeOnlyFromCallAndRet : Prop :=
  ∀ s t : State, s.fault = .none → step s = .next t → t.fault ≠ .none →
    (t.fault = .stackOverflow ∧ s.sp.toNat = 16 ∧ ∃ nnn, decodeWord s.fetchWord = .call nnn) ∨
    (t.fault = .stackUnderflow ∧ s.sp.toNat = 0 ∧ decodeWord s.fetchWord = .ret)

/-- 60_exceptions.md R223: while a fault is set Execute changes nothing; every command but Reset and Load completes with the
fault still set; Reset and Load clear it (decision D5, log 10). -/
def Obligations.FaultIsStickyUntilResetOrLoad : Prop :=
  ∀ s : State, s.fault ≠ .none →
    step s = .next s ∧
    (∀ c : Command, c ≠ .reset → (∀ image, c ≠ .load image) →
      ∃ t r, s.command c = .next (t, r) ∧ t.fault = s.fault) ∧
    (∃ t, s.command .reset = .next (t, .nothing) ∧ t.fault = .none) ∧
    (∀ image, ∃ t r, s.command (.load image) = .next (t, r) ∧ t.fault = .none)

/-- 60_exceptions.md R237: GetFault returns the fault register and changes nothing. (The command and the register are decision
D5, log 10.) -/
def Obligations.GetFaultReadsFaultRegister : Prop :=
  ∀ s : State, s.command .getFault = .next (s, .faultCode s.fault)

/-! ### Reset, load and the other commands -/

/-- 70_reset_and_hazards.md R260, R261, 10_state.md R36, R37: the reset state, and the state after Reset from any state, have
the reset values, the font bytes being `fontTable` (decision D10, log 3). The counter of draws, which is the model's own,
goes on (log 2). -/
def Obligations.ResetGivesResetValues : Prop :=
  HasResetValues State.reset ∧
  ∀ s : State, ∃ t, s.command .reset = .next (t, .nothing) ∧ HasResetValues t ∧
    t.draws = s.draws

/-- 70_reset_and_hazards.md R262: Load of an image of at most 3584 bytes gives the reset values (decisions D5, D10), but that
the image stands from 0x200 on. -/
def Obligations.LoadCopiesImage : Prop :=
  ∀ (s : State) (image : List Byte), image.length ≤ 3584 →
    ∃ t u, s.command (.load image) = .next (t, .loadResult .ok) ∧
      s.command .reset = .next (u, .nothing) ∧ HasResetValues u ∧
      (∀ (i : Nat) (h : i < image.length), t.memRead (0x200 + i) = image[i]) ∧
      (∀ a, a < 0x200 ∨ 0x200 + image.length ≤ a → a < 4096 → t.memRead a = u.memRead a) ∧
      UnchangedBut [.mem] u t

/-- 70_reset_and_hazards.md R263: Load of a longer image returns RomTooLarge and leaves exactly the state that Reset
leaves. -/
def Obligations.OversizedLoadLeavesResetState : Prop :=
  ∀ (s : State) (image : List Byte), 3584 < image.length →
    ∃ t, s.command (.load image) = .next (t, .loadResult .romTooLarge) ∧
      s.command .reset = .next (t, .nothing)

/-- 60_exceptions.md R229: TickTimers takes one from each timer that is not zero, and changes nothing else, a fault
set or not. -/
def Obligations.TickTimersCountsDown : Prop :=
  ∀ s : State, ∃ t, s.command .tickTimers = .next (t, .nothing) ∧
    (s.dt = 0 → t.dt = 0) ∧ (s.dt ≠ 0 → t.dt.toNat + 1 = s.dt.toNat) ∧
    (s.st = 0 → t.st = 0) ∧ (s.st ≠ 0 → t.st.toNat + 1 = s.st.toNat) ∧
    UnchangedBut [.dt, .st] s t

/-- 60_exceptions.md R233: SetKey writes one key of the latch and changes nothing else. (That there is no command for an index
above 15 is decision D17; the index is a 4-bit number.) -/
def Obligations.SetKeyWritesOneKey : Prop :=
  ∀ (s : State) (k : Nibble) (down : Bool), ∃ t,
    s.command (.setKey k down) = .next (t, .nothing) ∧ t.keyDown k = down ∧
    (∀ j, j ≠ k → t.keyDown j = s.keyDown j) ∧ UnchangedBut [.key] s t

/-- 60_exceptions.md R230, R234: the sound gate and the framebuffer are read without changing the state. -/
def Obligations.GateAndGridAreReadOnly : Prop :=
  ∀ s : State,
    s.command .isSoundActive = .next (s, .soundActive (decide (0 < s.st.toNat))) ∧
    ∃ g : Grid, s.command .getFramebuffer = .next (s, .framebuffer g) ∧
      ∀ (cx : Fin 64) (cy : Fin 32), g.cell cx cy = s.pixel cx cy

/-- 10_state.md R32: every 00E0 and every DXYN sets the dirty flag, no other instruction writes it, ConsumeDirtyFlag returns it
and clears it, and Reset clears it. -/
def Obligations.DirtyFlagWriters : Prop :=
  (∀ s : State, ∃ t, exec .cls s = .next t ∧ t.dirty = true) ∧
  (∀ (x y : Reg) (n : Nibble) (s : State), ∃ t, exec (.drw x y n) s = .next t ∧ t.dirty = true) ∧
  (∀ (i : Instr) (s t : State), i ≠ .cls → (∀ x y n, i ≠ .drw x y n) → exec i s = .next t →
    t.dirty = s.dirty) ∧
  ∀ s : State,
    (∃ t, s.command .consumeDirtyFlag = .next (t, .dirtyFlag s.dirty) ∧ t.dirty = false ∧
      UnchangedBut [.dirty] s t) ∧
    (∃ t, s.command .reset = .next (t, .nothing) ∧ t.dirty = false)

/-! ### The whole machine -/

/-- 10_state.md R38: no instruction writes a part of the state but those the column "written by" gives it. -/
def Obligations.InstructionsWriteOnlyTheirParts : Prop :=
  ∀ (i : Instr) (s t : State), exec i s = .next t → UnchangedBut (writtenParts i) s t

/-- 10_state.md R22: no instruction writes a general register but those its table gives it. -/
def Obligations.InstructionsWriteOnlyTheirRegisters : Prop :=
  ∀ (i : Instr) (s t : State) (r : Reg), exec i s = .next t → mayWriteReg i r = false →
    t.reg r = s.reg r

/-- 20_memory.md R58, R60: memories in canonical form that read alike at every address are the same data, so equal
states are equal data. -/
def Obligations.CanonicalMemoryIsDetermined : Prop :=
  ∀ m m' : Memory, m.wf → m'.wf → (∀ a, a < 4096 → m.read a = m'.read a) → m = m'

/-- 10_state.md R26, 60_exceptions.md R222: a step from a state that meets the invariant leads to one that meets it. (The canonical
form of memory is the model's; sp's bound and the precise fault rest on decisions D3, D4, D5, log 10.) -/
def Obligations.StepKeepsInvariant : Prop :=
  ∀ s t : State, s.Inv → step s = .next t → t.Inv

/-- 70_reset_and_hazards.md R260: the reset state meets the invariant. -/
def Obligations.ResetMeetsInvariant : Prop := State.reset.Inv

/-- 60_exceptions.md R220, 10_state.md R26: a step from a state that meets the invariant never stops the model: there is a next
state. (The stack faults are next states, log 5.) -/
def Obligations.StepNeverStops : Prop :=
  ∀ s : State, s.Inv → ∃ t, step s = .next t

/-- 60_exceptions.md R232, 10_state.md R26: from every state that meets the invariant, whether a run reaches it or not, every
command of the host completes, and leads to a state that meets it. (The canonical form of memory is the model's, log 4; the
faults are decisions D3, D4, D5, log 10; the range of SetKey is D17, log 7.) -/
def Obligations.EveryCommandKeepsInvariant : Prop :=
  ∀ (s : State) (c : Command), s.Inv → ∃ t r, s.command c = .next (t, r) ∧ t.Inv

/-- 60_exceptions.md R238, decision D18 (log 7): every schedule of host commands, in any order and with any programs loaded, runs
to its end from reset, gives a response to each command, and ends in a state that meets the invariant. -/
def Obligations.EveryScheduleRunsSafely : Prop :=
  ∀ cs : List Command, ∃ t rs, State.reset.schedule cs = .next (t, rs) ∧
    rs.length = cs.length ∧ t.Inv
end

