-- ==== Sys2Proof/Laws/Decode.lean ====
section
/-!
SUPPORT. The fields of a packed word, and a word as the pack of its fields.
-/

namespace Sys2Proof

/-! ### Bits of a packed word -/

theorem packA_getLsbD (c : Nibble) (a : Addr) (i : Nat) :
    (packA c a).getLsbD i = if i < 12 then a.getLsbD i else c.getLsbD (i - 12) := by
  unfold packA; exact BitVec.getLsbD_append

theorem packXK_getLsbD (c : Nibble) (x : Reg) (kk : Byte) (i : Nat) :
    (packXK c x kk).getLsbD i =
      if i < 8 then kk.getLsbD i
      else if i - 8 < 4 then x.getLsbD (i - 8) else c.getLsbD (i - 8 - 4) := by
  unfold packXK
  exact BitVec.getLsbD_append.trans (by rw [BitVec.getLsbD_append])

theorem packXYN_getLsbD (c : Nibble) (x y : Reg) (n : Nibble) (i : Nat) :
    (packXYN c x y n).getLsbD i =
      if i < 4 then n.getLsbD i
      else if i - 4 < 4 then y.getLsbD (i - 4)
      else if i - 4 - 4 < 4 then x.getLsbD (i - 4 - 4) else c.getLsbD (i - 4 - 4 - 4) := by
  unfold packXYN
  exact BitVec.getLsbD_append.trans (by rw [BitVec.getLsbD_append, BitVec.getLsbD_append])

theorem field_eq {n start : Nat} {w : Word} {f : BitVec n}
    (h : ∀ i < n, w.getLsbD (start + i) = f.getLsbD i) : w.extractLsb' start n = f := by
  apply BitVec.eq_of_getLsbD_eq
  intro i hi
  rw [BitVec.getLsbD_extractLsb']; simp [hi, h i hi]

/-! ### The fields of a packed word -/

section Fields
variable (c : Nibble) (a : Addr) (x y : Reg) (n : Nibble) (kk : Byte)

@[simp] theorem fieldC_packA : fieldC (packA c a) = c :=
  field_eq fun i hi => by rw [packA_getLsbD, if_neg (by omega)]; congr 1; omega

@[simp] theorem fieldNnn_packA : fieldNnn (packA c a) = a :=
  field_eq fun i hi => by rw [packA_getLsbD, if_pos (by omega)]; congr 1; omega

@[simp] theorem fieldC_packXK : fieldC (packXK c x kk) = c :=
  field_eq fun i hi => by
    rw [packXK_getLsbD, if_neg (by omega), if_neg (by omega)]; congr 1; omega

@[simp] theorem fieldX_packXK : fieldX (packXK c x kk) = x :=
  field_eq fun i hi => by
    rw [packXK_getLsbD, if_neg (by omega), if_pos (by omega)]; congr 1; omega

@[simp] theorem fieldKk_packXK : fieldKk (packXK c x kk) = kk :=
  field_eq fun i hi => by rw [packXK_getLsbD, if_pos (by omega)]; congr 1; omega

@[simp] theorem fieldC_packXYN : fieldC (packXYN c x y n) = c :=
  field_eq fun i hi => by
    rw [packXYN_getLsbD, if_neg (by omega), if_neg (by omega), if_neg (by omega)]; congr 1; omega

@[simp] theorem fieldX_packXYN : fieldX (packXYN c x y n) = x :=
  field_eq fun i hi => by
    rw [packXYN_getLsbD, if_neg (by omega), if_neg (by omega), if_pos (by omega)]; congr 1; omega

@[simp] theorem fieldY_packXYN : fieldY (packXYN c x y n) = y :=
  field_eq fun i hi => by
    rw [packXYN_getLsbD, if_neg (by omega), if_pos (by omega)]; congr 1; omega

@[simp] theorem fieldN_packXYN : fieldN (packXYN c x y n) = n :=
  field_eq fun i hi => by rw [packXYN_getLsbD, if_pos (by omega)]; congr 1; omega

end Fields

/-! ### A word as the pack of its fields -/

theorem packA_fields (w : Word) : packA (fieldC w) (fieldNnn w) = w := by
  apply BitVec.eq_of_getLsbD_eq
  intro i hi
  rw [packA_getLsbD, fieldC, fieldNnn, BitVec.getLsbD_extractLsb', BitVec.getLsbD_extractLsb']
  split
  · simp [*]
  · rw [decide_eq_true (by omega), Bool.true_and]; congr 1; omega

theorem packXK_fields (w : Word) : packXK (fieldC w) (fieldX w) (fieldKk w) = w := by
  apply BitVec.eq_of_getLsbD_eq
  intro i hi
  rw [packXK_getLsbD, fieldC, fieldX, fieldKk, BitVec.getLsbD_extractLsb',
    BitVec.getLsbD_extractLsb', BitVec.getLsbD_extractLsb']
  split
  · simp [*]
  · split <;> rw [decide_eq_true (by omega), Bool.true_and] <;> congr 1 <;> omega

theorem packXYN_fields (w : Word) :
    packXYN (fieldC w) (fieldX w) (fieldY w) (fieldN w) = w := by
  apply BitVec.eq_of_getLsbD_eq
  intro i hi
  rw [packXYN_getLsbD, fieldC, fieldX, fieldY, fieldN, BitVec.getLsbD_extractLsb',
    BitVec.getLsbD_extractLsb', BitVec.getLsbD_extractLsb', BitVec.getLsbD_extractLsb']
  split
  · simp [*]
  · split
    · rw [decide_eq_true (by omega), Bool.true_and]; congr 1; omega
    · split <;> rw [decide_eq_true (by omega), Bool.true_and] <;> congr 1 <;> omega

/-! ### Fields under a mask -/

@[simp] theorem fieldC_and (v w : Word) : fieldC (v &&& w) = fieldC v &&& fieldC w :=
  BitVec.extractLsb'_and ..

@[simp] theorem fieldN_and (v w : Word) : fieldN (v &&& w) = fieldN v &&& fieldN w :=
  BitVec.extractLsb'_and ..

@[simp] theorem fieldKk_and (v w : Word) : fieldKk (v &&& w) = fieldKk v &&& fieldKk w :=
  BitVec.extractLsb'_and ..

/-- The class of a word with the class bits of a pattern. -/
theorem fieldC_of_mask {w mask pattern : Word} (h : w &&& mask = pattern)
    (hm : fieldC mask = 0xF) : fieldC w = fieldC pattern := by
  rw [← h, fieldC_and, hm]; exact (BitVec.and_allOnes (x := fieldC w)).symm

/-- The low nibble of a word with the low bits of a pattern. -/
theorem fieldN_of_mask {w mask pattern : Word} (h : w &&& mask = pattern)
    (hm : fieldN mask = 0xF) : fieldN w = fieldN pattern := by
  rw [← h, fieldN_and, hm]; exact (BitVec.and_allOnes (x := fieldN w)).symm

/-- The low byte of a word with the low bits of a pattern. -/
theorem fieldKk_of_mask {w mask pattern : Word} (h : w &&& mask = pattern)
    (hm : fieldKk mask = 0xFF) : fieldKk w = fieldKk pattern := by
  rw [← h, fieldKk_and, hm]; exact (BitVec.and_allOnes (x := fieldKk w)).symm

/-! ### Masks of a packed word -/

theorem packA_and (c d : Nibble) (a b : Addr) :
    packA c a &&& packA d b = packA (c &&& d) (a &&& b) := by
  apply BitVec.eq_of_getLsbD_eq
  intro i _
  rw [BitVec.getLsbD_and, packA_getLsbD, packA_getLsbD, packA_getLsbD]
  split_ifs <;> simp

theorem packXK_and (c d : Nibble) (x y : Reg) (k l : Byte) :
    packXK c x k &&& packXK d y l = packXK (c &&& d) (x &&& y) (k &&& l) := by
  apply BitVec.eq_of_getLsbD_eq
  intro i _
  rw [BitVec.getLsbD_and, packXK_getLsbD, packXK_getLsbD, packXK_getLsbD]
  split_ifs <;> simp

theorem packXYN_and (c d : Nibble) (x y x' y' : Reg) (n m : Nibble) :
    packXYN c x y n &&& packXYN d x' y' m = packXYN (c &&& d) (x &&& x') (y &&& y') (n &&& m) := by
  apply BitVec.eq_of_getLsbD_eq
  intro i _
  rw [BitVec.getLsbD_and, packXYN_getLsbD, packXYN_getLsbD, packXYN_getLsbD]
  split_ifs <;> simp

/-! ### Bytes of a word -/

@[simp] theorem wordOfBytes_bytes (w : Word) : wordOfBytes (hiByte w) (loByte w) = w := by
  apply BitVec.eq_of_getLsbD_eq
  intro i hi
  refine (show _ = _ from BitVec.getLsbD_append).trans ?_
  rw [hiByte, loByte, BitVec.getLsbD_extractLsb', BitVec.getLsbD_extractLsb']
  split
  · simp [*]
  · rw [decide_eq_true (by omega), Bool.true_and]; congr 1; omega

end Sys2Proof
end

