-- ==== Sys2Proof/Laws/Memory.lean ====
section
/-!
SUPPORT. The laws of the memory list: a read after a write, and the canonical form, which every
operation keeps.
-/

namespace Sys2Proof.Machine

@[simp] theorem Memory.read_nil (a : Nat) : Memory.read [] a = resetByte a := rfl

theorem Memory.read_cons (c : Host.Cell) (m : Memory) (a : Nat) :
    Memory.read (c :: m) a = if a = c.1 then c.2 else m.read a := rfl

theorem Memory.mem_erase {m : Memory} {a : Nat} {c : Host.Cell} :
    c ∈ m.erase a ↔ c ∈ m ∧ c.1 ≠ a := by simp [Memory.erase]

/-- Without a cell for it, an address reads as its reset contents; the others read as before. -/
theorem Memory.read_erase (m : Memory) (a d : Nat) :
    (m.erase a).read d = if d = a then resetByte d else m.read d := by
  induction m with
  | nil => simp [Memory.erase]
  | cons c m ih =>
    unfold Memory.erase at ih ⊢
    by_cases h : c.1 = a
    · rw [List.filter_cons_of_neg (by simp [h]), ih, Memory.read_cons, h]
      split_ifs <;> rfl
    · rw [List.filter_cons_of_pos (by simp [h]), Memory.read_cons, Memory.read_cons, ih]
      by_cases hd : d = c.1
      · subst hd; simp [h]
      · simp [hd]

theorem Memory.read_insertCell {m : Memory} {a : Nat} (v : Byte) (h : ∀ c ∈ m, c.1 ≠ a) (d : Nat) :
    (Memory.insertCell a v m).read d = if d = a then v else m.read d := by
  induction m with
  | nil => rfl
  | cons c m ih =>
    unfold Memory.insertCell
    split
    · rfl
    · rw [Memory.read_cons, Memory.read_cons, ih fun e he => h e (by simp [he])]
      have := h c (by simp)
      split_ifs <;> simp_all

/-- A read after a write: the byte written at its address, every other byte as before. -/
theorem Memory.read_write (m : Memory) (a : Nat) (v : Byte) (d : Nat) :
    (m.write a v).read d = if d = a then v else m.read d := by
  unfold Memory.write
  split
  · rename_i hv
    rw [Memory.read_erase]
    split
    · rename_i hd; rw [hv, hd]
    · rfl
  · rw [Memory.read_insertCell v (fun c hc => (Memory.mem_erase.1 hc).2), Memory.read_erase]
    split <;> rfl

theorem Memory.wf_nil : Memory.wf [] := by simp [Memory.wf]

theorem Memory.wf_erase {m : Memory} (hm : m.wf) (a : Nat) : (m.erase a).wf :=
  ⟨hm.1.filter _, fun c hc => hm.2 c (Memory.mem_erase.1 hc).1⟩

theorem Memory.mem_insertCell {m : Memory} {a : Nat} {v : Byte} {c : Host.Cell} :
    c ∈ Memory.insertCell a v m ↔ c = (a, v) ∨ c ∈ m := by
  induction m with
  | nil => simp [Memory.insertCell]
  | cons d m ih =>
    unfold Memory.insertCell
    split
    · simp
    · simp only [List.mem_cons, ih]; tauto

theorem Memory.wf_insertCell {m : Memory} {a : Nat} {v : Byte} (hm : m.wf)
    (ha : a < Config.memBytes) (hv : v ≠ resetByte a) (hne : ∀ c ∈ m, c.1 ≠ a) :
    (Memory.insertCell a v m).wf := by
  refine ⟨?_, fun c hc => ?_⟩
  · have hp := hm.1
    clear hm
    induction m with
    | nil => simp [Memory.insertCell]
    | cons d m ih =>
      obtain ⟨hd, hp'⟩ := List.pairwise_cons.1 hp
      unfold Memory.insertCell
      split
      · rename_i hlt
        refine List.pairwise_cons.2 ⟨fun c hc => ?_, hp⟩
        rcases List.mem_cons.1 hc with rfl | hc
        · exact hlt
        · exact lt_trans hlt (hd c hc)
      · rename_i hlt
        refine List.pairwise_cons.2
          ⟨fun c hc => ?_, ih (fun c hc => hne c (by simp [hc])) hp'⟩
        have hda := hne d (by simp)
        rcases Memory.mem_insertCell.1 hc with rfl | hc
        · show d.1 < a; omega
        · exact hd c hc
  · rcases Memory.mem_insertCell.1 hc with rfl | hc
    · exact ⟨ha, hv⟩
    · exact hm.2 c hc

/-- A write inside the address space keeps the canonical form. -/
theorem Memory.wf_write {m : Memory} {a : Nat} (v : Byte) (ha : a < Config.memBytes) (hm : m.wf) :
    (m.write a v).wf := by
  unfold Memory.write
  split
  · exact Memory.wf_erase hm a
  · exact Memory.wf_insertCell (Memory.wf_erase hm a) ha ‹_› fun c hc => (Memory.mem_erase.1 hc).2

/-- Writing a list of bytes inside the address space keeps the canonical form. -/
theorem Memory.wf_writeList {bytes : List Byte} {m : Memory} {a : Nat}
    (ha : a + bytes.length ≤ Config.memBytes) (hm : m.wf) : (m.writeList a bytes).wf := by
  induction bytes generalizing m a with
  | nil => exact hm
  | cons b bytes ih =>
    rw [List.length_cons] at ha
    exact ih (by omega) (Memory.wf_write b (by omega) hm)

/-- What a list of bytes written from `a` on leaves: its bytes in their order, every other byte as before. -/
theorem Memory.read_writeList (bytes : List Byte) (m : Memory) (a d : Nat) :
    (m.writeList a bytes).read d =
      if h : a ≤ d ∧ d - a < bytes.length then bytes[d - a]'h.2 else m.read d := by
  induction bytes generalizing m a with
  | nil => simp [Memory.writeList]
  | cons b bytes ih =>
    rw [Memory.writeList, ih, Memory.read_write]
    by_cases hd : d = a
    · subst hd; simp
    · by_cases hlt : a + 1 ≤ d ∧ d - (a + 1) < bytes.length
      · have h2 : a ≤ d ∧ d - a < (b :: bytes).length := by simp; omega
        rw [dif_pos hlt, dif_pos h2]
        have h3 : d - a = (d - (a + 1)) + 1 := by omega
        simp [h3]
      · have h2 : ¬ (a ≤ d ∧ d - a < (b :: bytes).length) := by simp; omega
        rw [dif_neg hlt, dif_neg h2, if_neg hd]

theorem busAddress_lt (a : Nat) : busAddress a < Config.memBytes := Nat.mod_lt _ (by decide)

end Sys2Proof.Machine
end

