-- ==== Sys2Proof/Laws/State.lean ====
section
/-!
SUPPORT. One lemma per element of the state per update: what each update leaves, and what it writes.
-/

namespace Sys2Proof.Machine

variable (s : State)

/-! ### setReg -/

@[simp] theorem State.setReg_index (x : Reg) (b : Byte) : (s.setReg x b).index = s.index := rfl
@[simp] theorem State.setReg_pc (x : Reg) (b : Byte) : (s.setReg x b).pc = s.pc := rfl
@[simp] theorem State.setReg_sp (x : Reg) (b : Byte) : (s.setReg x b).sp = s.sp := rfl
@[simp] theorem State.setReg_stack (x : Reg) (b : Byte) : (s.setReg x b).stack = s.stack := rfl
@[simp] theorem State.setReg_dt (x : Reg) (b : Byte) : (s.setReg x b).dt = s.dt := rfl
@[simp] theorem State.setReg_st (x : Reg) (b : Byte) : (s.setReg x b).st = s.st := rfl
@[simp] theorem State.setReg_key (x : Reg) (b : Byte) : (s.setReg x b).key = s.key := rfl
@[simp] theorem State.setReg_fb (x : Reg) (b : Byte) : (s.setReg x b).fb = s.fb := rfl
@[simp] theorem State.setReg_dirty (x : Reg) (b : Byte) : (s.setReg x b).dirty = s.dirty := rfl
@[simp] theorem State.setReg_fault (x : Reg) (b : Byte) : (s.setReg x b).fault = s.fault := rfl
@[simp] theorem State.setReg_mem (x : Reg) (b : Byte) : (s.setReg x b).mem = s.mem := rfl
@[simp] theorem State.setReg_draws (x : Reg) (b : Byte) : (s.setReg x b).draws = s.draws := rfl
@[simp] theorem State.setReg_keyDown (x : Reg) (b : Byte) (k : Nibble) :
    (s.setReg x b).keyDown k = s.keyDown k := rfl
@[simp] theorem State.setReg_pixel (x : Reg) (b : Byte) (cx : Fin 64) (cy : Fin 32) :
    (s.setReg x b).pixel cx cy = s.pixel cx cy := rfl
@[simp] theorem State.setReg_memRead (x : Reg) (b : Byte) (a : Nat) :
    (s.setReg x b).memRead a = s.memRead a := rfl

/-! ### setFlag -/

@[simp] theorem State.setFlag_index (b : Byte) : (s.setFlag b).index = s.index := rfl
@[simp] theorem State.setFlag_pc (b : Byte) : (s.setFlag b).pc = s.pc := rfl
@[simp] theorem State.setFlag_sp (b : Byte) : (s.setFlag b).sp = s.sp := rfl
@[simp] theorem State.setFlag_stack (b : Byte) : (s.setFlag b).stack = s.stack := rfl
@[simp] theorem State.setFlag_dt (b : Byte) : (s.setFlag b).dt = s.dt := rfl
@[simp] theorem State.setFlag_st (b : Byte) : (s.setFlag b).st = s.st := rfl
@[simp] theorem State.setFlag_key (b : Byte) : (s.setFlag b).key = s.key := rfl
@[simp] theorem State.setFlag_fb (b : Byte) : (s.setFlag b).fb = s.fb := rfl
@[simp] theorem State.setFlag_dirty (b : Byte) : (s.setFlag b).dirty = s.dirty := rfl
@[simp] theorem State.setFlag_fault (b : Byte) : (s.setFlag b).fault = s.fault := rfl
@[simp] theorem State.setFlag_mem (b : Byte) : (s.setFlag b).mem = s.mem := rfl
@[simp] theorem State.setFlag_draws (b : Byte) : (s.setFlag b).draws = s.draws := rfl
@[simp] theorem State.setFlag_keyDown (b : Byte) (k : Nibble) :
    (s.setFlag b).keyDown k = s.keyDown k := rfl
@[simp] theorem State.setFlag_pixel (b : Byte) (cx : Fin 64) (cy : Fin 32) :
    (s.setFlag b).pixel cx cy = s.pixel cx cy := rfl
@[simp] theorem State.setFlag_memRead (b : Byte) (a : Nat) :
    (s.setFlag b).memRead a = s.memRead a := rfl

/-! ### setIndex -/

@[simp] theorem State.setIndex_v (w : Word) : (s.setIndex w).v = s.v := rfl
@[simp] theorem State.setIndex_index (w : Word) : (s.setIndex w).index = w := rfl
@[simp] theorem State.setIndex_pc (w : Word) : (s.setIndex w).pc = s.pc := rfl
@[simp] theorem State.setIndex_sp (w : Word) : (s.setIndex w).sp = s.sp := rfl
@[simp] theorem State.setIndex_stack (w : Word) : (s.setIndex w).stack = s.stack := rfl
@[simp] theorem State.setIndex_dt (w : Word) : (s.setIndex w).dt = s.dt := rfl
@[simp] theorem State.setIndex_st (w : Word) : (s.setIndex w).st = s.st := rfl
@[simp] theorem State.setIndex_key (w : Word) : (s.setIndex w).key = s.key := rfl
@[simp] theorem State.setIndex_fb (w : Word) : (s.setIndex w).fb = s.fb := rfl
@[simp] theorem State.setIndex_dirty (w : Word) : (s.setIndex w).dirty = s.dirty := rfl
@[simp] theorem State.setIndex_fault (w : Word) : (s.setIndex w).fault = s.fault := rfl
@[simp] theorem State.setIndex_mem (w : Word) : (s.setIndex w).mem = s.mem := rfl
@[simp] theorem State.setIndex_draws (w : Word) : (s.setIndex w).draws = s.draws := rfl
@[simp] theorem State.setIndex_reg (w : Word) (r : Reg) :
    (s.setIndex w).reg r = s.reg r := rfl
@[simp] theorem State.setIndex_keyDown (w : Word) (k : Nibble) :
    (s.setIndex w).keyDown k = s.keyDown k := rfl
@[simp] theorem State.setIndex_pixel (w : Word) (cx : Fin 64) (cy : Fin 32) :
    (s.setIndex w).pixel cx cy = s.pixel cx cy := rfl
@[simp] theorem State.setIndex_memRead (w : Word) (a : Nat) :
    (s.setIndex w).memRead a = s.memRead a := rfl

/-! ### setPc -/

@[simp] theorem State.setPc_v (w : Word) : (s.setPc w).v = s.v := rfl
@[simp] theorem State.setPc_index (w : Word) : (s.setPc w).index = s.index := rfl
@[simp] theorem State.setPc_pc (w : Word) : (s.setPc w).pc = w := rfl
@[simp] theorem State.setPc_sp (w : Word) : (s.setPc w).sp = s.sp := rfl
@[simp] theorem State.setPc_stack (w : Word) : (s.setPc w).stack = s.stack := rfl
@[simp] theorem State.setPc_dt (w : Word) : (s.setPc w).dt = s.dt := rfl
@[simp] theorem State.setPc_st (w : Word) : (s.setPc w).st = s.st := rfl
@[simp] theorem State.setPc_key (w : Word) : (s.setPc w).key = s.key := rfl
@[simp] theorem State.setPc_fb (w : Word) : (s.setPc w).fb = s.fb := rfl
@[simp] theorem State.setPc_dirty (w : Word) : (s.setPc w).dirty = s.dirty := rfl
@[simp] theorem State.setPc_fault (w : Word) : (s.setPc w).fault = s.fault := rfl
@[simp] theorem State.setPc_mem (w : Word) : (s.setPc w).mem = s.mem := rfl
@[simp] theorem State.setPc_draws (w : Word) : (s.setPc w).draws = s.draws := rfl
@[simp] theorem State.setPc_reg (w : Word) (r : Reg) :
    (s.setPc w).reg r = s.reg r := rfl
@[simp] theorem State.setPc_keyDown (w : Word) (k : Nibble) :
    (s.setPc w).keyDown k = s.keyDown k := rfl
@[simp] theorem State.setPc_pixel (w : Word) (cx : Fin 64) (cy : Fin 32) :
    (s.setPc w).pixel cx cy = s.pixel cx cy := rfl
@[simp] theorem State.setPc_memRead (w : Word) (a : Nat) :
    (s.setPc w).memRead a = s.memRead a := rfl

/-! ### skip -/

@[simp] theorem State.skip_v : (s.skip).v = s.v := rfl
@[simp] theorem State.skip_index : (s.skip).index = s.index := rfl
@[simp] theorem State.skip_pc : (s.skip).pc = s.pc + 2 := rfl
@[simp] theorem State.skip_sp : (s.skip).sp = s.sp := rfl
@[simp] theorem State.skip_stack : (s.skip).stack = s.stack := rfl
@[simp] theorem State.skip_dt : (s.skip).dt = s.dt := rfl
@[simp] theorem State.skip_st : (s.skip).st = s.st := rfl
@[simp] theorem State.skip_key : (s.skip).key = s.key := rfl
@[simp] theorem State.skip_fb : (s.skip).fb = s.fb := rfl
@[simp] theorem State.skip_dirty : (s.skip).dirty = s.dirty := rfl
@[simp] theorem State.skip_fault : (s.skip).fault = s.fault := rfl
@[simp] theorem State.skip_mem : (s.skip).mem = s.mem := rfl
@[simp] theorem State.skip_draws : (s.skip).draws = s.draws := rfl
@[simp] theorem State.skip_reg (r : Reg) :
    (s.skip).reg r = s.reg r := rfl
@[simp] theorem State.skip_keyDown (k : Nibble) :
    (s.skip).keyDown k = s.keyDown k := rfl
@[simp] theorem State.skip_pixel (cx : Fin 64) (cy : Fin 32) :
    (s.skip).pixel cx cy = s.pixel cx cy := rfl
@[simp] theorem State.skip_memRead (a : Nat) :
    (s.skip).memRead a = s.memRead a := rfl

/-! ### advancePc -/

@[simp] theorem State.advancePc_v : (s.advancePc).v = s.v := rfl
@[simp] theorem State.advancePc_index : (s.advancePc).index = s.index := rfl
@[simp] theorem State.advancePc_pc : (s.advancePc).pc = s.pc + 2 := rfl
@[simp] theorem State.advancePc_sp : (s.advancePc).sp = s.sp := rfl
@[simp] theorem State.advancePc_stack : (s.advancePc).stack = s.stack := rfl
@[simp] theorem State.advancePc_dt : (s.advancePc).dt = s.dt := rfl
@[simp] theorem State.advancePc_st : (s.advancePc).st = s.st := rfl
@[simp] theorem State.advancePc_key : (s.advancePc).key = s.key := rfl
@[simp] theorem State.advancePc_fb : (s.advancePc).fb = s.fb := rfl
@[simp] theorem State.advancePc_dirty : (s.advancePc).dirty = s.dirty := rfl
@[simp] theorem State.advancePc_fault : (s.advancePc).fault = s.fault := rfl
@[simp] theorem State.advancePc_mem : (s.advancePc).mem = s.mem := rfl
@[simp] theorem State.advancePc_draws : (s.advancePc).draws = s.draws := rfl
@[simp] theorem State.advancePc_reg (r : Reg) :
    (s.advancePc).reg r = s.reg r := rfl
@[simp] theorem State.advancePc_keyDown (k : Nibble) :
    (s.advancePc).keyDown k = s.keyDown k := rfl
@[simp] theorem State.advancePc_pixel (cx : Fin 64) (cy : Fin 32) :
    (s.advancePc).pixel cx cy = s.pixel cx cy := rfl
@[simp] theorem State.advancePc_memRead (a : Nat) :
    (s.advancePc).memRead a = s.memRead a := rfl

/-! ### setDt -/

@[simp] theorem State.setDt_v (b : Byte) : (s.setDt b).v = s.v := rfl
@[simp] theorem State.setDt_index (b : Byte) : (s.setDt b).index = s.index := rfl
@[simp] theorem State.setDt_pc (b : Byte) : (s.setDt b).pc = s.pc := rfl
@[simp] theorem State.setDt_sp (b : Byte) : (s.setDt b).sp = s.sp := rfl
@[simp] theorem State.setDt_stack (b : Byte) : (s.setDt b).stack = s.stack := rfl
@[simp] theorem State.setDt_dt (b : Byte) : (s.setDt b).dt = b := rfl
@[simp] theorem State.setDt_st (b : Byte) : (s.setDt b).st = s.st := rfl
@[simp] theorem State.setDt_key (b : Byte) : (s.setDt b).key = s.key := rfl
@[simp] theorem State.setDt_fb (b : Byte) : (s.setDt b).fb = s.fb := rfl
@[simp] theorem State.setDt_dirty (b : Byte) : (s.setDt b).dirty = s.dirty := rfl
@[simp] theorem State.setDt_fault (b : Byte) : (s.setDt b).fault = s.fault := rfl
@[simp] theorem State.setDt_mem (b : Byte) : (s.setDt b).mem = s.mem := rfl
@[simp] theorem State.setDt_draws (b : Byte) : (s.setDt b).draws = s.draws := rfl
@[simp] theorem State.setDt_reg (b : Byte) (r : Reg) :
    (s.setDt b).reg r = s.reg r := rfl
@[simp] theorem State.setDt_keyDown (b : Byte) (k : Nibble) :
    (s.setDt b).keyDown k = s.keyDown k := rfl
@[simp] theorem State.setDt_pixel (b : Byte) (cx : Fin 64) (cy : Fin 32) :
    (s.setDt b).pixel cx cy = s.pixel cx cy := rfl
@[simp] theorem State.setDt_memRead (b : Byte) (a : Nat) :
    (s.setDt b).memRead a = s.memRead a := rfl

/-! ### setSt -/

@[simp] theorem State.setSt_v (b : Byte) : (s.setSt b).v = s.v := rfl
@[simp] theorem State.setSt_index (b : Byte) : (s.setSt b).index = s.index := rfl
@[simp] theorem State.setSt_pc (b : Byte) : (s.setSt b).pc = s.pc := rfl
@[simp] theorem State.setSt_sp (b : Byte) : (s.setSt b).sp = s.sp := rfl
@[simp] theorem State.setSt_stack (b : Byte) : (s.setSt b).stack = s.stack := rfl
@[simp] theorem State.setSt_dt (b : Byte) : (s.setSt b).dt = s.dt := rfl
@[simp] theorem State.setSt_st (b : Byte) : (s.setSt b).st = b := rfl
@[simp] theorem State.setSt_key (b : Byte) : (s.setSt b).key = s.key := rfl
@[simp] theorem State.setSt_fb (b : Byte) : (s.setSt b).fb = s.fb := rfl
@[simp] theorem State.setSt_dirty (b : Byte) : (s.setSt b).dirty = s.dirty := rfl
@[simp] theorem State.setSt_fault (b : Byte) : (s.setSt b).fault = s.fault := rfl
@[simp] theorem State.setSt_mem (b : Byte) : (s.setSt b).mem = s.mem := rfl
@[simp] theorem State.setSt_draws (b : Byte) : (s.setSt b).draws = s.draws := rfl
@[simp] theorem State.setSt_reg (b : Byte) (r : Reg) :
    (s.setSt b).reg r = s.reg r := rfl
@[simp] theorem State.setSt_keyDown (b : Byte) (k : Nibble) :
    (s.setSt b).keyDown k = s.keyDown k := rfl
@[simp] theorem State.setSt_pixel (b : Byte) (cx : Fin 64) (cy : Fin 32) :
    (s.setSt b).pixel cx cy = s.pixel cx cy := rfl
@[simp] theorem State.setSt_memRead (b : Byte) (a : Nat) :
    (s.setSt b).memRead a = s.memRead a := rfl

/-! ### setDirty -/

@[simp] theorem State.setDirty_v (d : Bool) : (s.setDirty d).v = s.v := rfl
@[simp] theorem State.setDirty_index (d : Bool) : (s.setDirty d).index = s.index := rfl
@[simp] theorem State.setDirty_pc (d : Bool) : (s.setDirty d).pc = s.pc := rfl
@[simp] theorem State.setDirty_sp (d : Bool) : (s.setDirty d).sp = s.sp := rfl
@[simp] theorem State.setDirty_stack (d : Bool) : (s.setDirty d).stack = s.stack := rfl
@[simp] theorem State.setDirty_dt (d : Bool) : (s.setDirty d).dt = s.dt := rfl
@[simp] theorem State.setDirty_st (d : Bool) : (s.setDirty d).st = s.st := rfl
@[simp] theorem State.setDirty_key (d : Bool) : (s.setDirty d).key = s.key := rfl
@[simp] theorem State.setDirty_fb (d : Bool) : (s.setDirty d).fb = s.fb := rfl
@[simp] theorem State.setDirty_dirty (d : Bool) : (s.setDirty d).dirty = d := rfl
@[simp] theorem State.setDirty_fault (d : Bool) : (s.setDirty d).fault = s.fault := rfl
@[simp] theorem State.setDirty_mem (d : Bool) : (s.setDirty d).mem = s.mem := rfl
@[simp] theorem State.setDirty_draws (d : Bool) : (s.setDirty d).draws = s.draws := rfl
@[simp] theorem State.setDirty_reg (d : Bool) (r : Reg) :
    (s.setDirty d).reg r = s.reg r := rfl
@[simp] theorem State.setDirty_keyDown (d : Bool) (k : Nibble) :
    (s.setDirty d).keyDown k = s.keyDown k := rfl
@[simp] theorem State.setDirty_pixel (d : Bool) (cx : Fin 64) (cy : Fin 32) :
    (s.setDirty d).pixel cx cy = s.pixel cx cy := rfl
@[simp] theorem State.setDirty_memRead (d : Bool) (a : Nat) :
    (s.setDirty d).memRead a = s.memRead a := rfl

/-! ### nextDraw -/

@[simp] theorem State.nextDraw_v : (s.nextDraw).v = s.v := rfl
@[simp] theorem State.nextDraw_index : (s.nextDraw).index = s.index := rfl
@[simp] theorem State.nextDraw_pc : (s.nextDraw).pc = s.pc := rfl
@[simp] theorem State.nextDraw_sp : (s.nextDraw).sp = s.sp := rfl
@[simp] theorem State.nextDraw_stack : (s.nextDraw).stack = s.stack := rfl
@[simp] theorem State.nextDraw_dt : (s.nextDraw).dt = s.dt := rfl
@[simp] theorem State.nextDraw_st : (s.nextDraw).st = s.st := rfl
@[simp] theorem State.nextDraw_key : (s.nextDraw).key = s.key := rfl
@[simp] theorem State.nextDraw_fb : (s.nextDraw).fb = s.fb := rfl
@[simp] theorem State.nextDraw_dirty : (s.nextDraw).dirty = s.dirty := rfl
@[simp] theorem State.nextDraw_fault : (s.nextDraw).fault = s.fault := rfl
@[simp] theorem State.nextDraw_mem : (s.nextDraw).mem = s.mem := rfl
@[simp] theorem State.nextDraw_draws : (s.nextDraw).draws = s.draws + 1 := rfl
@[simp] theorem State.nextDraw_reg (r : Reg) :
    (s.nextDraw).reg r = s.reg r := rfl
@[simp] theorem State.nextDraw_keyDown (k : Nibble) :
    (s.nextDraw).keyDown k = s.keyDown k := rfl
@[simp] theorem State.nextDraw_pixel (cx : Fin 64) (cy : Fin 32) :
    (s.nextDraw).pixel cx cy = s.pixel cx cy := rfl
@[simp] theorem State.nextDraw_memRead (a : Nat) :
    (s.nextDraw).memRead a = s.memRead a := rfl

/-! ### setKey -/

@[simp] theorem State.setKey_v (i : Nibble) (d : Bool) : (s.setKey i d).v = s.v := rfl
@[simp] theorem State.setKey_index (i : Nibble) (d : Bool) : (s.setKey i d).index = s.index := rfl
@[simp] theorem State.setKey_pc (i : Nibble) (d : Bool) : (s.setKey i d).pc = s.pc := rfl
@[simp] theorem State.setKey_sp (i : Nibble) (d : Bool) : (s.setKey i d).sp = s.sp := rfl
@[simp] theorem State.setKey_stack (i : Nibble) (d : Bool) : (s.setKey i d).stack = s.stack := rfl
@[simp] theorem State.setKey_dt (i : Nibble) (d : Bool) : (s.setKey i d).dt = s.dt := rfl
@[simp] theorem State.setKey_st (i : Nibble) (d : Bool) : (s.setKey i d).st = s.st := rfl
@[simp] theorem State.setKey_fb (i : Nibble) (d : Bool) : (s.setKey i d).fb = s.fb := rfl
@[simp] theorem State.setKey_dirty (i : Nibble) (d : Bool) : (s.setKey i d).dirty = s.dirty := rfl
@[simp] theorem State.setKey_fault (i : Nibble) (d : Bool) : (s.setKey i d).fault = s.fault := rfl
@[simp] theorem State.setKey_mem (i : Nibble) (d : Bool) : (s.setKey i d).mem = s.mem := rfl
@[simp] theorem State.setKey_draws (i : Nibble) (d : Bool) : (s.setKey i d).draws = s.draws := rfl
@[simp] theorem State.setKey_reg (i : Nibble) (d : Bool) (r : Reg) :
    (s.setKey i d).reg r = s.reg r := rfl
@[simp] theorem State.setKey_pixel (i : Nibble) (d : Bool) (cx : Fin 64) (cy : Fin 32) :
    (s.setKey i d).pixel cx cy = s.pixel cx cy := rfl
@[simp] theorem State.setKey_memRead (i : Nibble) (d : Bool) (a : Nat) :
    (s.setKey i d).memRead a = s.memRead a := rfl

/-! ### flipPixel -/

@[simp] theorem State.flipPixel_v (tx : Fin 64) (ty : Fin 32) : (s.flipPixel tx ty).v = s.v := rfl
@[simp] theorem State.flipPixel_index (tx : Fin 64) (ty : Fin 32) : (s.flipPixel tx ty).index = s.index := rfl
@[simp] theorem State.flipPixel_pc (tx : Fin 64) (ty : Fin 32) : (s.flipPixel tx ty).pc = s.pc := rfl
@[simp] theorem State.flipPixel_sp (tx : Fin 64) (ty : Fin 32) : (s.flipPixel tx ty).sp = s.sp := rfl
@[simp] theorem State.flipPixel_stack (tx : Fin 64) (ty : Fin 32) : (s.flipPixel tx ty).stack = s.stack := rfl
@[simp] theorem State.flipPixel_dt (tx : Fin 64) (ty : Fin 32) : (s.flipPixel tx ty).dt = s.dt := rfl
@[simp] theorem State.flipPixel_st (tx : Fin 64) (ty : Fin 32) : (s.flipPixel tx ty).st = s.st := rfl
@[simp] theorem State.flipPixel_key (tx : Fin 64) (ty : Fin 32) : (s.flipPixel tx ty).key = s.key := rfl
@[simp] theorem State.flipPixel_dirty (tx : Fin 64) (ty : Fin 32) : (s.flipPixel tx ty).dirty = s.dirty := rfl
@[simp] theorem State.flipPixel_fault (tx : Fin 64) (ty : Fin 32) : (s.flipPixel tx ty).fault = s.fault := rfl
@[simp] theorem State.flipPixel_mem (tx : Fin 64) (ty : Fin 32) : (s.flipPixel tx ty).mem = s.mem := rfl
@[simp] theorem State.flipPixel_draws (tx : Fin 64) (ty : Fin 32) : (s.flipPixel tx ty).draws = s.draws := rfl
@[simp] theorem State.flipPixel_reg (tx : Fin 64) (ty : Fin 32) (r : Reg) :
    (s.flipPixel tx ty).reg r = s.reg r := rfl
@[simp] theorem State.flipPixel_keyDown (tx : Fin 64) (ty : Fin 32) (k : Nibble) :
    (s.flipPixel tx ty).keyDown k = s.keyDown k := rfl
@[simp] theorem State.flipPixel_memRead (tx : Fin 64) (ty : Fin 32) (a : Nat) :
    (s.flipPixel tx ty).memRead a = s.memRead a := rfl

/-! ### clearFb -/

@[simp] theorem State.clearFb_v : (s.clearFb).v = s.v := rfl
@[simp] theorem State.clearFb_index : (s.clearFb).index = s.index := rfl
@[simp] theorem State.clearFb_pc : (s.clearFb).pc = s.pc := rfl
@[simp] theorem State.clearFb_sp : (s.clearFb).sp = s.sp := rfl
@[simp] theorem State.clearFb_stack : (s.clearFb).stack = s.stack := rfl
@[simp] theorem State.clearFb_dt : (s.clearFb).dt = s.dt := rfl
@[simp] theorem State.clearFb_st : (s.clearFb).st = s.st := rfl
@[simp] theorem State.clearFb_key : (s.clearFb).key = s.key := rfl
@[simp] theorem State.clearFb_fb : (s.clearFb).fb = blankGrid := rfl
@[simp] theorem State.clearFb_dirty : (s.clearFb).dirty = s.dirty := rfl
@[simp] theorem State.clearFb_fault : (s.clearFb).fault = s.fault := rfl
@[simp] theorem State.clearFb_mem : (s.clearFb).mem = s.mem := rfl
@[simp] theorem State.clearFb_draws : (s.clearFb).draws = s.draws := rfl
@[simp] theorem State.clearFb_reg (r : Reg) :
    (s.clearFb).reg r = s.reg r := rfl
@[simp] theorem State.clearFb_keyDown (k : Nibble) :
    (s.clearFb).keyDown k = s.keyDown k := rfl
@[simp] theorem State.clearFb_memRead (a : Nat) :
    (s.clearFb).memRead a = s.memRead a := rfl

/-! ### memWrite -/

@[simp] theorem State.memWrite_v (i : Nat) (b : Byte) : (s.memWrite i b).v = s.v := rfl
@[simp] theorem State.memWrite_index (i : Nat) (b : Byte) : (s.memWrite i b).index = s.index := rfl
@[simp] theorem State.memWrite_pc (i : Nat) (b : Byte) : (s.memWrite i b).pc = s.pc := rfl
@[simp] theorem State.memWrite_sp (i : Nat) (b : Byte) : (s.memWrite i b).sp = s.sp := rfl
@[simp] theorem State.memWrite_stack (i : Nat) (b : Byte) : (s.memWrite i b).stack = s.stack := rfl
@[simp] theorem State.memWrite_dt (i : Nat) (b : Byte) : (s.memWrite i b).dt = s.dt := rfl
@[simp] theorem State.memWrite_st (i : Nat) (b : Byte) : (s.memWrite i b).st = s.st := rfl
@[simp] theorem State.memWrite_key (i : Nat) (b : Byte) : (s.memWrite i b).key = s.key := rfl
@[simp] theorem State.memWrite_fb (i : Nat) (b : Byte) : (s.memWrite i b).fb = s.fb := rfl
@[simp] theorem State.memWrite_dirty (i : Nat) (b : Byte) : (s.memWrite i b).dirty = s.dirty := rfl
@[simp] theorem State.memWrite_fault (i : Nat) (b : Byte) : (s.memWrite i b).fault = s.fault := rfl
@[simp] theorem State.memWrite_mem (i : Nat) (b : Byte) : (s.memWrite i b).mem = s.mem.write (busAddress i) b := rfl
@[simp] theorem State.memWrite_draws (i : Nat) (b : Byte) : (s.memWrite i b).draws = s.draws := rfl
@[simp] theorem State.memWrite_reg (i : Nat) (b : Byte) (r : Reg) :
    (s.memWrite i b).reg r = s.reg r := rfl
@[simp] theorem State.memWrite_keyDown (i : Nat) (b : Byte) (k : Nibble) :
    (s.memWrite i b).keyDown k = s.keyDown k := rfl
@[simp] theorem State.memWrite_pixel (i : Nat) (b : Byte) (cx : Fin 64) (cy : Fin 32) :
    (s.memWrite i b).pixel cx cy = s.pixel cx cy := rfl

/-! ### raise -/

@[simp] theorem State.raise_v (code : FaultCode) : (s.raise code).v = s.v := rfl
@[simp] theorem State.raise_index (code : FaultCode) : (s.raise code).index = s.index := rfl
@[simp] theorem State.raise_pc (code : FaultCode) : (s.raise code).pc = s.pc - 2 := rfl
@[simp] theorem State.raise_sp (code : FaultCode) : (s.raise code).sp = s.sp := rfl
@[simp] theorem State.raise_stack (code : FaultCode) : (s.raise code).stack = s.stack := rfl
@[simp] theorem State.raise_dt (code : FaultCode) : (s.raise code).dt = s.dt := rfl
@[simp] theorem State.raise_st (code : FaultCode) : (s.raise code).st = s.st := rfl
@[simp] theorem State.raise_key (code : FaultCode) : (s.raise code).key = s.key := rfl
@[simp] theorem State.raise_fb (code : FaultCode) : (s.raise code).fb = s.fb := rfl
@[simp] theorem State.raise_dirty (code : FaultCode) : (s.raise code).dirty = s.dirty := rfl
@[simp] theorem State.raise_fault (code : FaultCode) : (s.raise code).fault = code := rfl
@[simp] theorem State.raise_mem (code : FaultCode) : (s.raise code).mem = s.mem := rfl
@[simp] theorem State.raise_draws (code : FaultCode) : (s.raise code).draws = s.draws := rfl
@[simp] theorem State.raise_reg (code : FaultCode) (r : Reg) :
    (s.raise code).reg r = s.reg r := rfl
@[simp] theorem State.raise_keyDown (code : FaultCode) (k : Nibble) :
    (s.raise code).keyDown k = s.keyDown k := rfl
@[simp] theorem State.raise_pixel (code : FaultCode) (cx : Fin 64) (cy : Fin 32) :
    (s.raise code).pixel cx cy = s.pixel cx cy := rfl
@[simp] theorem State.raise_memRead (code : FaultCode) (a : Nat) :
    (s.raise code).memRead a = s.memRead a := rfl

/-! ### pushReturn -/

@[simp] theorem State.pushReturn_v (h : s.sp.toNat < 16) : (s.pushReturn h).v = s.v := rfl
@[simp] theorem State.pushReturn_index (h : s.sp.toNat < 16) : (s.pushReturn h).index = s.index := rfl
@[simp] theorem State.pushReturn_pc (h : s.sp.toNat < 16) : (s.pushReturn h).pc = s.pc := rfl
@[simp] theorem State.pushReturn_sp (h : s.sp.toNat < 16) : (s.pushReturn h).sp = s.sp + 1 := rfl
@[simp] theorem State.pushReturn_stack (h : s.sp.toNat < 16) : (s.pushReturn h).stack = s.stack.set s.sp.toNat s.pc h := rfl
@[simp] theorem State.pushReturn_dt (h : s.sp.toNat < 16) : (s.pushReturn h).dt = s.dt := rfl
@[simp] theorem State.pushReturn_st (h : s.sp.toNat < 16) : (s.pushReturn h).st = s.st := rfl
@[simp] theorem State.pushReturn_key (h : s.sp.toNat < 16) : (s.pushReturn h).key = s.key := rfl
@[simp] theorem State.pushReturn_fb (h : s.sp.toNat < 16) : (s.pushReturn h).fb = s.fb := rfl
@[simp] theorem State.pushReturn_dirty (h : s.sp.toNat < 16) : (s.pushReturn h).dirty = s.dirty := rfl
@[simp] theorem State.pushReturn_fault (h : s.sp.toNat < 16) : (s.pushReturn h).fault = s.fault := rfl
@[simp] theorem State.pushReturn_mem (h : s.sp.toNat < 16) : (s.pushReturn h).mem = s.mem := rfl
@[simp] theorem State.pushReturn_draws (h : s.sp.toNat < 16) : (s.pushReturn h).draws = s.draws := rfl
@[simp] theorem State.pushReturn_reg (h : s.sp.toNat < 16) (r : Reg) :
    (s.pushReturn h).reg r = s.reg r := rfl
@[simp] theorem State.pushReturn_keyDown (h : s.sp.toNat < 16) (k : Nibble) :
    (s.pushReturn h).keyDown k = s.keyDown k := rfl
@[simp] theorem State.pushReturn_pixel (h : s.sp.toNat < 16) (cx : Fin 64) (cy : Fin 32) :
    (s.pushReturn h).pixel cx cy = s.pixel cx cy := rfl
@[simp] theorem State.pushReturn_memRead (h : s.sp.toNat < 16) (a : Nat) :
    (s.pushReturn h).memRead a = s.memRead a := rfl

/-! ### popReturn -/

@[simp] theorem State.popReturn_v (h : (s.sp - 1).toNat < 16) : (s.popReturn h).v = s.v := rfl
@[simp] theorem State.popReturn_index (h : (s.sp - 1).toNat < 16) : (s.popReturn h).index = s.index := rfl
@[simp] theorem State.popReturn_pc (h : (s.sp - 1).toNat < 16) : (s.popReturn h).pc = s.stack[(s.sp - 1).toNat] := rfl
@[simp] theorem State.popReturn_sp (h : (s.sp - 1).toNat < 16) : (s.popReturn h).sp = s.sp - 1 := rfl
@[simp] theorem State.popReturn_stack (h : (s.sp - 1).toNat < 16) : (s.popReturn h).stack = s.stack := rfl
@[simp] theorem State.popReturn_dt (h : (s.sp - 1).toNat < 16) : (s.popReturn h).dt = s.dt := rfl
@[simp] theorem State.popReturn_st (h : (s.sp - 1).toNat < 16) : (s.popReturn h).st = s.st := rfl
@[simp] theorem State.popReturn_key (h : (s.sp - 1).toNat < 16) : (s.popReturn h).key = s.key := rfl
@[simp] theorem State.popReturn_fb (h : (s.sp - 1).toNat < 16) : (s.popReturn h).fb = s.fb := rfl
@[simp] theorem State.popReturn_dirty (h : (s.sp - 1).toNat < 16) : (s.popReturn h).dirty = s.dirty := rfl
@[simp] theorem State.popReturn_fault (h : (s.sp - 1).toNat < 16) : (s.popReturn h).fault = s.fault := rfl
@[simp] theorem State.popReturn_mem (h : (s.sp - 1).toNat < 16) : (s.popReturn h).mem = s.mem := rfl
@[simp] theorem State.popReturn_draws (h : (s.sp - 1).toNat < 16) : (s.popReturn h).draws = s.draws := rfl
@[simp] theorem State.popReturn_reg (h : (s.sp - 1).toNat < 16) (r : Reg) :
    (s.popReturn h).reg r = s.reg r := rfl
@[simp] theorem State.popReturn_keyDown (h : (s.sp - 1).toNat < 16) (k : Nibble) :
    (s.popReturn h).keyDown k = s.keyDown k := rfl
@[simp] theorem State.popReturn_pixel (h : (s.sp - 1).toNat < 16) (cx : Fin 64) (cy : Fin 32) :
    (s.popReturn h).pixel cx cy = s.pixel cx cy := rfl
@[simp] theorem State.popReturn_memRead (h : (s.sp - 1).toNat < 16) (a : Nat) :
    (s.popReturn h).memRead a = s.memRead a := rfl

end Sys2Proof.Machine
end

