-- ==== Sys2Proof/Laws/Ops.lean ====
section
/-!
SUPPORT. One lemma per shared operation: everything it can do to what it writes. What it leaves is in
Laws/State.lean.
-/

namespace Sys2Proof.Machine

variable (s : State)

/-! ### Registers and keys -/

theorem State.setReg_reg (x : Reg) (b : Byte) (r : Reg) :
    (s.setReg x b).reg r = if r = x then b else s.reg r := by
  unfold State.reg State.setReg
  rw [Vector.getElem_set]
  by_cases h : r = x
  · subst h; simp
  · rw [if_neg h, if_neg]; exact fun h' => h (BitVec.eq_of_toNat_eq h'.symm)

@[simp] theorem State.setReg_reg_same (x : Reg) (b : Byte) : (s.setReg x b).reg x = b := by
  simp [State.setReg_reg]

theorem State.setReg_reg_ne {x r : Reg} (h : r ≠ x) (b : Byte) : (s.setReg x b).reg r = s.reg r := by
  simp [State.setReg_reg, h]

theorem State.setFlag_reg (b : Byte) (r : Reg) :
    (s.setFlag b).reg r = if r = regF then b else s.reg r := State.setReg_reg ..

theorem State.setKey_keyDown (k : Nibble) (d : Bool) (j : Nibble) :
    (s.setKey k d).keyDown j = if j = k then d else s.keyDown j := by
  unfold State.keyDown State.setKey
  rw [Vector.getElem_set]
  by_cases h : j = k
  · subst h; simp
  · rw [if_neg h, if_neg]; exact fun h' => h (BitVec.eq_of_toNat_eq h'.symm)

/-! ### Framebuffer -/

theorem Grid.flip_cell (g : Grid) (tx : Fin 64) (ty : Fin 32) (cx : Fin 64) (cy : Fin 32) :
    (g.flip tx ty).cell cx cy = if cx = tx ∧ cy = ty then !g.cell tx ty else g.cell cx cy := by
  unfold Grid.flip
  rw [Grid.cell, Vector.getElem_set]
  by_cases hy : ty = cy
  · subst hy
    simp only [if_true, Vector.getElem_set, and_true]
    by_cases hx : tx = cx
    · subst hx; simp
    · simp only [Fin.ext_iff] at hx ⊢
      simp only [hx, Ne.symm hx, if_false]; rfl
  · simp only [Fin.ext_iff] at hy ⊢
    simp only [hy, Ne.symm hy, and_false, if_false]; rfl

theorem State.flipPixel_pixel (tx : Fin 64) (ty : Fin 32) (cx : Fin 64) (cy : Fin 32) :
    (s.flipPixel tx ty).pixel cx cy =
      if cx = tx ∧ cy = ty then !s.pixel tx ty else s.pixel cx cy := Grid.flip_cell ..

@[simp] theorem State.clearFb_pixel (cx : Fin 64) (cy : Fin 32) :
    s.clearFb.pixel cx cy = false := by
  simp [State.clearFb, State.pixel, Grid.cell, blankGrid]

/-! ### Memory -/

theorem State.memWrite_memRead (a : Nat) (b : Byte) (d : Nat) :
    (s.memWrite a b).memRead d = if busAddress d = busAddress a then b else s.memRead d :=
  Memory.read_write ..

theorem State.memWrite_wf {s : State} (h : s.mem.wf) (a : Nat) (b : Byte) :
    (s.memWrite a b).mem.wf := Memory.wf_write b (busAddress_lt a) h

/-! ### Skips -/

theorem State.skipIf_eq (c : Bool) :
    State.skipIf c s = s.setPc (if c then s.pc + 2 else s.pc) := by
  cases c <;> rfl

/-! ### Call stack and faults -/

/-- A pc after the fetch, taken back: the instruction's own address. -/
@[simp] theorem advance_back (w : Word) : w + 2 - 2 = w := by bv_omega

/-- Everything a call can do. -/
theorem State.callTo_cases (target : Word) :
    (s.sp = 16 ∧ s.callTo target = .next (s.raise .stackOverflow)) ∨
    (∃ h : s.sp.toNat < 16, s.callTo target = .next ((s.pushReturn h).setPc target)) ∨
    (16 < s.sp.toNat ∧ s.callTo target = .fault .stackIndexOutOfRange) := by
  unfold State.callTo
  split
  · exact .inl ⟨‹_›, rfl⟩
  · split
    · exact .inr (.inl ⟨‹_›, rfl⟩)
    · exact .inr (.inr ⟨by bv_omega, rfl⟩)

/-- Everything a return can do. -/
theorem State.returnFromCall_cases :
    (s.sp = 0 ∧ s.returnFromCall = .next (s.raise .stackUnderflow)) ∨
    (s.sp ≠ 0 ∧ ∃ h : (s.sp - 1).toNat < 16, s.returnFromCall = .next (s.popReturn h)) ∨
    (16 < s.sp.toNat ∧ s.returnFromCall = .fault .stackIndexOutOfRange) := by
  unfold State.returnFromCall
  split
  · exact .inl ⟨‹_›, rfl⟩
  · split
    · exact .inr (.inl ⟨‹_›, ‹_›, rfl⟩)
    · exact .inr (.inr ⟨by bv_omega, rfl⟩)

/-! ### Operands -/

/-- The key test of an index in the latch. -/
theorem pressed_of_le {b : Byte} (h : b ≤ 0xF) :
    pressed s b = (s.keyDown (keyNumber b), s) := if_pos h

/-- The key test of an index above the latch. -/
theorem pressed_of_not_le {b : Byte} (h : ¬ b ≤ 0xF) :
    pressed s b = (Config.keyOob s.draws, s.nextDraw) := if_neg h

theorem regNumber_toNat {k : Nat} (h : k < 16) : (regNumber k).toNat = k := by
  simp [regNumber]; omega

theorem regNumber_eq_iff {k : Nat} (h : k < 16) (r : Reg) : r = regNumber k ↔ r.toNat = k := by
  rw [← BitVec.toNat_inj, regNumber_toNat h]

/-- The scan finds the lowest set key. -/
theorem firstKey_eq_some {k : Nibble} :
    firstKey s = some k ↔ s.keyDown k = true ∧ ∀ j, j < k → s.keyDown j = false := by
  have hmem : ∀ j : Nibble, j ∈ keyScan := by decide
  have hsort : keyScan.Pairwise (· < ·) := by decide
  unfold firstKey
  rw [List.find?_eq_some_iff_append]
  constructor
  · rintro ⟨hk, as, bs, hsplit, has⟩
    refine ⟨hk, fun j hj => ?_⟩
    have hjm := hmem j
    rw [hsplit] at hjm hsort
    rcases List.mem_append.1 hjm with h | h
    · simpa using has j h
    · rcases List.mem_cons.1 h with rfl | h
      · bv_omega
      · have := (List.pairwise_cons.1 (List.pairwise_append.1 hsort).2.1).1 j h
        bv_omega
  · rintro ⟨hk, hlow⟩
    obtain ⟨as, bs, hsplit⟩ := List.append_of_mem (hmem k)
    refine ⟨hk, as, bs, hsplit, fun j hj => ?_⟩
    rw [hsplit] at hsort
    have := (List.pairwise_append.1 hsort).2.2 j hj k (by simp)
    simp [hlow j this]

theorem firstKey_eq_none : firstKey s = none ↔ ∀ j, s.keyDown j = false := by
  have hmem : ∀ j : Nibble, j ∈ keyScan := by decide
  unfold firstKey
  rw [List.find?_eq_none]
  exact ⟨fun h j => by simpa using h j (hmem j), fun h j _ => by simp [h j]⟩

/-! ### Block transfers -/

/-- A block store writes only memory. -/
theorem storeRegs_frame (n : Nat) : ∃ m, storeRegs s n = { s with mem := m } := by
  induction n with
  | zero => exact ⟨s.mem, rfl⟩
  | succ n ih => obtain ⟨m, hm⟩ := ih; rw [storeRegs, hm]; exact ⟨_, rfl⟩

theorem storeRegs_wf {s : State} (h : s.mem.wf) (n : Nat) : (storeRegs s n).mem.wf := by
  induction n with
  | zero => exact h
  | succ n ih => exact State.memWrite_wf ih _ _

/-- A block load writes only general registers. -/
theorem loadRegs_frame (n : Nat) : ∃ v, loadRegs s n = { s with v := v } := by
  induction n with
  | zero => exact ⟨s.v, rfl⟩
  | succ n ih => obtain ⟨v, hv⟩ := ih; rw [loadRegs, hv]; exact ⟨_, rfl⟩

/-- The registers a block load leaves: the loaded ones hold their bytes, the others are as before. -/
theorem loadRegs_reg {n : Nat} (h : n ≤ 16) (r : Reg) :
    (loadRegs s n).reg r = if r.toNat < n then s.memRead (dataAddress s r.toNat) else s.reg r := by
  induction n with
  | zero => simp [loadRegs]
  | succ n ih =>
    simp only [loadRegs, State.setReg_reg, regNumber_eq_iff (by omega : n < 16), ih (by omega)]
    by_cases hr : r.toNat = n
    · simp [hr]
    · rw [if_neg hr]
      by_cases hlt : r.toNat < n
      · rw [if_pos hlt, if_pos (by omega)]
      · rw [if_neg hlt, if_neg (by omega)]

/-- The bytes a block store leaves outside its addresses. -/
theorem storeRegs_memRead_other {n a : Nat}
    (h : ∀ k < n, busAddress a ≠ busAddress (dataAddress s k)) :
    (storeRegs s n).memRead a = s.memRead a := by
  induction n with
  | zero => rfl
  | succ n ih =>
    rw [storeRegs, State.memWrite_memRead, if_neg (h n (by omega))]
    exact ih fun k hk => h k (by omega)

/-- The bytes of a block of at most 4096 addresses are all different. -/
theorem dataAddress_injective {j k : Nat} (hj : j < Config.memBytes) (hk : k < Config.memBytes)
    (h : busAddress (dataAddress s j) = busAddress (dataAddress s k)) : j = k := by
  simp only [busAddress, dataAddress, Config.memBytes] at *; omega

/-- The bytes a block store leaves at its addresses: the registers. -/
theorem storeRegs_memRead_same {n k : Nat} (hn : n ≤ 16) (hk : k < n) :
    (storeRegs s n).memRead (dataAddress s k) = s.reg (regNumber k) := by
  induction n with
  | zero => omega
  | succ n ih =>
    rw [storeRegs, State.memWrite_memRead]
    by_cases h : k = n
    · simp [h]
    · rw [if_neg, ih (by omega) (by omega)]
      exact fun h' => h (dataAddress_injective s
        (by unfold Config.memBytes; omega) (by unfold Config.memBytes; omega) h')

end Sys2Proof.Machine
end

