-- ==== Sys2Proof/Laws/Display.lean ====
section
/-!
SUPPORT. What the loops of DRW do: they write only VF and the framebuffer, and each part's effect on one
pixel.
-/

namespace Sys2Proof.Machine

variable (s : State)

/-- The state's registers and framebuffer apart, two states agree, and so do their registers but VF. -/
structure DrawsOnly (s t : State) : Prop where
  index : t.index = s.index
  pc : t.pc = s.pc
  sp : t.sp = s.sp
  stack : t.stack = s.stack
  dt : t.dt = s.dt
  st : t.st = s.st
  key : t.key = s.key
  dirty : t.dirty = s.dirty
  fault : t.fault = s.fault
  mem : t.mem = s.mem
  draws : t.draws = s.draws
  reg : ∀ r, r ≠ regF → t.reg r = s.reg r

theorem DrawsOnly.rfl : DrawsOnly s s := by constructor <;> intros <;> first | exact Eq.refl _

theorem DrawsOnly.trans {s t u : State} (h : DrawsOnly s t) (k : DrawsOnly t u) : DrawsOnly s u where
  index := k.index.trans h.index
  pc := k.pc.trans h.pc
  sp := k.sp.trans h.sp
  stack := k.stack.trans h.stack
  dt := k.dt.trans h.dt
  st := k.st.trans h.st
  key := k.key.trans h.key
  dirty := k.dirty.trans h.dirty
  fault := k.fault.trans h.fault
  mem := k.mem.trans h.mem
  draws := k.draws.trans h.draws
  reg r hr := (k.reg r hr).trans (h.reg r hr)

theorem State.xorPixel_only (tx : Fin 64) (ty : Fin 32) : DrawsOnly s (s.xorPixel tx ty) := by
  unfold State.xorPixel
  split
  · constructor <;> intros <;> simp_all [State.setFlag_reg]
  · constructor <;> intros <;> simp

/-- One lit sprite pixel inverts its cell and no other. -/
theorem State.xorPixel_pixel (tx : Fin 64) (ty : Fin 32) (cx : Fin 64) (cy : Fin 32) :
    (s.xorPixel tx ty).pixel cx cy = (s.pixel cx cy ^^ (decide (cx = tx ∧ cy = ty))) := by
  have hflag : (if s.pixel tx ty then s.setFlag 1 else s).pixel = s.pixel := by
    split <;> rfl
  unfold State.xorPixel
  rw [State.flipPixel_pixel, hflag]
  by_cases h : cx = tx ∧ cy = ty
  · obtain ⟨rfl, rfl⟩ := h; simp
  · simp [h]

/-- One lit sprite pixel sets VF exactly where its cell was on, and else leaves VF. -/
theorem State.xorPixel_flag (tx : Fin 64) (ty : Fin 32) :
    (s.xorPixel tx ty).reg regF = if s.pixel tx ty then 1 else s.reg regF := by
  unfold State.xorPixel
  split <;> simp_all [State.setFlag_reg]

theorem State.drawColumn_only (ox : Nat) (ty : Fin 32) (b : Byte) (c : Nat) :
    DrawsOnly s (s.drawColumn ox ty b c) := by
  unfold State.drawColumn
  split
  · split
    · exact s.xorPixel_only _ _
    · exact DrawsOnly.rfl s
  · exact DrawsOnly.rfl s

theorem State.drawColumns_only (ox : Nat) (ty : Fin 32) (b : Byte) (n : Nat) :
    DrawsOnly s (s.drawColumns ox ty b n) := by
  induction n with
  | zero => exact DrawsOnly.rfl s
  | succ n ih => exact ih.trans (State.drawColumn_only ..)

theorem State.drawRow_only (ox oy r : Nat) : DrawsOnly s (s.drawRow ox oy r) := by
  unfold State.drawRow
  split
  · exact State.drawColumns_only ..
  · exact DrawsOnly.rfl s

/-- Drawing a sprite writes VF and the framebuffer, nothing else. -/
theorem State.drawRows_only (ox oy n : Nat) : DrawsOnly s (s.drawRows ox oy n) := by
  induction n with
  | zero => exact DrawsOnly.rfl s
  | succ n ih => exact ih.trans (State.drawRow_only ..)

/-- A step that inverts the cells `p` marks, and sets VF exactly where it turns a lit cell off. -/
structure Inverts (s t : State) (p : Fin 64 → Fin 32 → Bool) : Prop where
  pixel : ∀ cx cy, t.pixel cx cy = (s.pixel cx cy ^^ p cx cy)
  hit : (∃ cx cy, p cx cy = true ∧ s.pixel cx cy = true) → t.reg regF = 1
  miss : (¬ ∃ cx cy, p cx cy = true ∧ s.pixel cx cy = true) → t.reg regF = s.reg regF

theorem Inverts.rfl : Inverts s s fun _ _ => false where
  pixel _ _ := by simp
  hit h := by obtain ⟨_, _, h, _⟩ := h; cases h
  miss _ := Eq.refl _

/-- Two inversions of cells that no cell shares are one inversion. -/
theorem Inverts.trans {s t u : State} {p q : Fin 64 → Fin 32 → Bool} (h : Inverts s t p)
    (k : Inverts t u q) (hd : ∀ cx cy, ¬ (p cx cy = true ∧ q cx cy = true)) :
    Inverts s u fun cx cy => p cx cy || q cx cy := by
  have hq : ∀ cx cy, q cx cy = true → t.pixel cx cy = s.pixel cx cy := by
    intro cx cy hc
    have hp : p cx cy = false := by
      have := hd cx cy; cases hp : p cx cy <;> simp_all
    rw [h.pixel, hp]; simp
  refine ⟨fun cx cy => ?_, fun hh => ?_, fun hh => ?_⟩
  · have := hd cx cy
    rw [k.pixel, h.pixel]
    cases hp : p cx cy <;> cases hq : q cx cy <;> simp_all
  · by_cases hk : ∃ cx cy, q cx cy = true ∧ t.pixel cx cy = true
    · exact k.hit hk
    · rw [k.miss hk]
      obtain ⟨cx, cy, hpq, hs⟩ := hh
      cases hp : p cx cy with
      | true => exact h.hit ⟨cx, cy, hp, hs⟩
      | false =>
        rw [hp, Bool.false_or] at hpq
        exact absurd ⟨cx, cy, hpq, (hq cx cy hpq).trans hs⟩ hk
  · rw [k.miss, h.miss]
    · rintro ⟨cx, cy, hp, hs⟩; exact hh ⟨cx, cy, by simp [hp], hs⟩
    · rintro ⟨cx, cy, hc, ht⟩
      exact hh ⟨cx, cy, by simp [hc], (hq cx cy hc).symm.trans ht⟩

theorem Inverts.congr {s t : State} {p q : Fin 64 → Fin 32 → Bool} (h : Inverts s t p)
    (he : ∀ cx cy, p cx cy = q cx cy) : Inverts s t q := by
  have : p = q := funext fun cx => funext fun cy => he cx cy
  exact this ▸ h

/-- A column of a sprite row inverts its cell where that lies on the grid and its bit is 1. -/
theorem State.drawColumn_inverts (ox : Nat) (ty : Fin 32) (b : Byte) (c : Nat) :
    Inverts s (s.drawColumn ox ty b c) fun cx cy =>
      decide (cx.val = ox + c ∧ cy = ty) && spriteBit b c := by
  unfold State.drawColumn
  split
  · rename_i h
    split
    · rename_i hb
      constructor
      · intro cx cy
        rw [State.xorPixel_pixel, hb]
        simp [Fin.ext_iff]
      · rintro ⟨cx, cy, hc, hs⟩
        rw [State.xorPixel_flag]
        simp only [hb, Bool.and_true, decide_eq_true_eq] at hc
        obtain ⟨hx, rfl⟩ := hc
        have : cx = ⟨ox + c, h⟩ := Fin.ext hx
        rw [← this, if_pos hs]
      · intro hn
        rw [State.xorPixel_flag, if_neg]
        intro hs
        exact hn ⟨⟨ox + c, h⟩, ty, by simp [hb], hs⟩
    · rename_i hb
      exact (Inverts.rfl s).congr fun cx cy => by simp [hb]
  · rename_i h
    refine (Inverts.rfl s).congr fun cx cy => ?_
    have := cx.isLt
    rw [decide_eq_false (by omega), Bool.false_and]

/-- The first `n` columns of a sprite row. -/
theorem State.drawColumns_inverts (ox : Nat) (ty : Fin 32) (b : Byte) (n : Nat) :
    Inverts s (s.drawColumns ox ty b n) fun cx cy =>
      decide (ox ≤ cx.val ∧ cx.val < ox + n ∧ cy = ty) && spriteBit b (cx.val - ox) := by
  induction n with
  | zero =>
    refine (Inverts.rfl s).congr fun cx cy => ?_
    rw [decide_eq_false (by omega), Bool.false_and]
  | succ n ih =>
    refine (ih.trans (State.drawColumn_inverts ..) ?_).congr ?_
    · rintro cx cy ⟨h1, h2⟩
      simp only [Bool.and_eq_true, decide_eq_true_eq] at h1 h2
      omega
    · intro cx cy
      by_cases hx : cx.val = ox + n
      · simp [hx]
      · have : (ox ≤ cx.val ∧ cx.val < ox + (n + 1) ∧ cy = ty) ↔
            (ox ≤ cx.val ∧ cx.val < ox + n ∧ cy = ty) := by omega
        simp [hx, this]

/-- Row `r` of a sprite. -/
theorem State.drawRow_inverts (ox oy r : Nat) :
    Inverts s (s.drawRow ox oy r) fun cx cy =>
      decide (ox ≤ cx.val ∧ cx.val < ox + 8 ∧ cy.val = oy + r) &&
        spriteBit (s.memRead (dataAddress s r)) (cx.val - ox) := by
  unfold State.drawRow
  split
  · exact (State.drawColumns_inverts ..).congr fun cx cy => by simp [Fin.ext_iff]
  · refine (Inverts.rfl s).congr fun cx cy => ?_
    have := cy.isLt
    rw [decide_eq_false (by omega), Bool.false_and]

/-- The first `n` rows of a sprite: each cell of the grid that a lit sprite bit falls on is inverted, and VF is set
exactly where a lit cell goes off. -/
theorem State.drawRows_inverts (ox oy n : Nat) :
    Inverts s (s.drawRows ox oy n) fun cx cy =>
      decide (ox ≤ cx.val ∧ cx.val < ox + 8 ∧ oy ≤ cy.val ∧ cy.val < oy + n) &&
        spriteBit (s.memRead (dataAddress s (cy.val - oy))) (cx.val - ox) := by
  induction n with
  | zero =>
    refine (Inverts.rfl s).congr fun cx cy => ?_
    rw [decide_eq_false (by omega), Bool.false_and]
  | succ n ih =>
    have hm := (s.drawRows_only ox oy n).mem
    have hi := (s.drawRows_only ox oy n).index
    refine (ih.trans (State.drawRow_inverts ..) ?_).congr ?_
    · rintro cx cy ⟨h1, h2⟩
      simp only [Bool.and_eq_true, decide_eq_true_eq] at h1 h2
      omega
    · intro cx cy
      simp only [State.memRead, dataAddress, hm, hi]
      by_cases hy : cy.val = oy + n
      · simp [hy]
      · have : (ox ≤ cx.val ∧ cx.val < ox + 8 ∧ oy ≤ cy.val ∧ cy.val < oy + (n + 1)) ↔
            (ox ≤ cx.val ∧ cx.val < ox + 8 ∧ oy ≤ cy.val ∧ cy.val < oy + n) := by omega
        simp [hy, this]

end Sys2Proof.Machine
end

