-- ==== Sys2Proof/Laws/Frames.lean ====
section
/-!
SUPPORT. The frame of each shared operation: the parts of the state it leaves.
-/

namespace Sys2Proof.Machine

variable {s t u : State} {ps qs : List Part}

theorem Part.same_refl (p : Part) (s : State) : p.same s s := by
  cases p <;> simp [Part.same]

theorem Part.same_trans {p : Part} (h : p.same s t) (k : p.same t u) : p.same s u := by
  cases p <;> simp_all [Part.same]

theorem UnchangedBut.refl (ps : List Part) (s : State) : UnchangedBut ps s s :=
  fun p _ => p.same_refl s

theorem UnchangedBut.trans (h : UnchangedBut ps s t) (k : UnchangedBut ps t u) :
    UnchangedBut ps s u := fun p hp => Part.same_trans (h p hp) (k p hp)

theorem UnchangedBut.mono (h : UnchangedBut ps s t) (hs : ∀ p ∈ ps, p ∈ qs) :
    UnchangedBut qs s t := fun p hp => h p fun hm => hp (hs p hm)

variable (s)

theorem unchangedBut_setReg (x : Reg) (b : Byte) : UnchangedBut [.regs] s (s.setReg x b) := by
  intro p hp; cases p <;> simp_all [Part.same]

theorem unchangedBut_setFlag (b : Byte) : UnchangedBut [.regs] s (s.setFlag b) :=
  unchangedBut_setReg s _ b

theorem unchangedBut_setIndex (w : Word) : UnchangedBut [.index] s (s.setIndex w) := by
  intro p hp; cases p <;> simp_all [Part.same]

theorem unchangedBut_setPc (w : Word) : UnchangedBut [.pc] s (s.setPc w) := by
  intro p hp; cases p <;> simp_all [Part.same]

theorem unchangedBut_skipIf (c : Bool) : UnchangedBut [.pc] s (s.skipIf c) := by
  rw [State.skipIf_eq]; exact unchangedBut_setPc s _

theorem unchangedBut_setDt (b : Byte) : UnchangedBut [.dt] s (s.setDt b) := by
  intro p hp; cases p <;> simp_all [Part.same]

theorem unchangedBut_setSt (b : Byte) : UnchangedBut [.st] s (s.setSt b) := by
  intro p hp; cases p <;> simp_all [Part.same]

theorem unchangedBut_setDirty (d : Bool) : UnchangedBut [.dirty] s (s.setDirty d) := by
  intro p hp; cases p <;> simp_all [Part.same]

theorem unchangedBut_nextDraw : UnchangedBut [.draws] s s.nextDraw := by
  intro p hp; cases p <;> simp_all [Part.same]

theorem unchangedBut_setKey (k : Nibble) (d : Bool) : UnchangedBut [.key] s (s.setKey k d) := by
  intro p hp; cases p <;> simp_all [Part.same]

theorem unchangedBut_clearFb : UnchangedBut [.fb] s s.clearFb := by
  intro p hp; cases p <;> simp_all [Part.same]

theorem unchangedBut_memWrite (a : Nat) (b : Byte) : UnchangedBut [.mem] s (s.memWrite a b) := by
  intro p hp; cases p <;> simp_all [Part.same]

theorem unchangedBut_raise (code : FaultCode) : UnchangedBut [.pc, .fault] s (s.raise code) := by
  intro p hp; cases p <;> simp_all [Part.same]

theorem unchangedBut_pushReturn (h : s.sp.toNat < 16) :
    UnchangedBut [.stack, .sp] s (s.pushReturn h) := by
  intro p hp; cases p <;> simp_all [Part.same]

theorem unchangedBut_popReturn (h : (s.sp - 1).toNat < 16) :
    UnchangedBut [.sp, .pc] s (s.popReturn h) := by
  intro p hp; cases p <;> simp_all [Part.same]

theorem unchangedBut_storeRegs (n : Nat) : UnchangedBut [.mem] s (storeRegs s n) := by
  induction n with
  | zero => exact .refl _ _
  | succ n ih => exact ih.trans (unchangedBut_memWrite _ _ _)

theorem unchangedBut_loadRegs (n : Nat) : UnchangedBut [.regs] s (loadRegs s n) := by
  induction n with
  | zero => exact .refl _ _
  | succ n ih => exact ih.trans (unchangedBut_setReg _ _ _)

theorem DrawsOnly.unchangedBut {s t : State} (h : DrawsOnly s t) :
    UnchangedBut [.regs, .fb] s t := by
  intro p hp
  cases p <;>
    simp_all [Part.same, State.keyDown, State.memRead, h.index, h.pc, h.sp, h.stack, h.dt, h.st,
      h.key, h.dirty, h.fault, h.mem, h.draws]

theorem unchangedBut_drawRows (ox oy n : Nat) :
    UnchangedBut [.regs, .fb] s (s.drawRows ox oy n) := (s.drawRows_only ox oy n).unchangedBut

/-- The key test leaves everything but the count of draws. -/
theorem unchangedBut_pressed (b : Byte) : UnchangedBut [.draws] s (pressed s b).2 := by
  unfold pressed
  split
  · exact .refl _ _
  · exact unchangedBut_nextDraw s

end Sys2Proof.Machine
end

