-- ==== Sys2Proof/Laws/PerInstr.lean ====
section
/-!
SUPPORT. The family TableWord: an instruction's word carries the fixed bits of its row of
spec/opcode_table.json (30_encoding.md R85, R83).
-/

namespace Sys2Proof.Laws

/-- The pattern and the mask of an instruction's row. -/
def tableRow (i : Instr) : Word × Word :=
  match i with
  | .sys _ => (0x0000, 0xF000)
  | .cls => (0x00E0, 0xFFFF)
  | .ret => (0x00EE, 0xFFFF)
  | .jp _ => (0x1000, 0xF000)
  | .call _ => (0x2000, 0xF000)
  | .seImm _ _ => (0x3000, 0xF000)
  | .sneImm _ _ => (0x4000, 0xF000)
  | .seReg _ _ _ => (0x5000, 0xF000)
  | .ldImm _ _ => (0x6000, 0xF000)
  | .addImm _ _ => (0x7000, 0xF000)
  | .ldReg _ _ => (0x8000, 0xF00F)
  | .orReg _ _ => (0x8001, 0xF00F)
  | .andReg _ _ => (0x8002, 0xF00F)
  | .xorReg _ _ => (0x8003, 0xF00F)
  | .addReg _ _ => (0x8004, 0xF00F)
  | .subReg _ _ => (0x8005, 0xF00F)
  | .shrReg _ _ => (0x8006, 0xF00F)
  | .subnReg _ _ => (0x8007, 0xF00F)
  | .shlReg _ _ => (0x800E, 0xF00F)
  | .sneReg _ _ _ => (0x9000, 0xF000)
  | .ldI _ => (0xA000, 0xF000)
  | .jpV0 _ => (0xB000, 0xF000)
  | .rnd _ _ => (0xC000, 0xF000)
  | .drw _ _ _ => (0xD000, 0xF000)
  | .skp _ => (0xE09E, 0xF0FF)
  | .sknp _ => (0xE0A1, 0xF0FF)
  | .ldVxDt _ => (0xF007, 0xF0FF)
  | .ldVxK _ => (0xF00A, 0xF0FF)
  | .ldDtVx _ => (0xF015, 0xF0FF)
  | .ldStVx _ => (0xF018, 0xF0FF)
  | .addIVx _ => (0xF01E, 0xF0FF)
  | .ldFVx _ => (0xF029, 0xF0FF)
  | .ldBVx _ => (0xF033, 0xF0FF)
  | .ldMemVx _ => (0xF055, 0xF0FF)
  | .ldVxMem _ => (0xF065, 0xF0FF)
  | .unrec8XY8 _ _ => (0x8008, 0xF00F)
  | .unrec8XY9 _ _ => (0x8009, 0xF00F)
  | .unrec8XYA _ _ => (0x800A, 0xF00F)
  | .unrec8XYB _ _ => (0x800B, 0xF00F)
  | .unrec8XYC _ _ => (0x800C, 0xF00F)
  | .unrec8XYD _ _ => (0x800D, 0xF00F)
  | .unrec8XYF _ _ => (0x800F, 0xF00F)
  | .unrecEXKK _ _ => (0xE000, 0xF000)
  | .unrecFXKK _ _ => (0xF000, 0xF000)

/-- The word of the instruction has its row's fixed bits. -/
def TableWord.Statement (i : Instr) : Prop := encode i &&& (tableRow i).2 = (tableRow i).1

section
variable (nnn : Addr) (x y : Reg) (n : Nibble) (kk : Byte)

/-! The masks and patterns, as packed fields. -/

theorem class_packA (c : Nibble) : packA c nnn &&& 0xF000 = packA c 0 := by
  rw [show (0xF000 : Word) = packA 0xF 0 from rfl, packA_and]
  congr 1
  · exact BitVec.and_allOnes
  · exact BitVec.and_zero

theorem class_packXK (c : Nibble) : packXK c x kk &&& 0xF000 = packXK c 0 0 := by
  rw [show (0xF000 : Word) = packXK 0xF 0 0 from rfl, packXK_and]
  congr 1
  · exact BitVec.and_allOnes
  · exact BitVec.and_zero
  · exact BitVec.and_zero

theorem sub_packXK (c : Nibble) : packXK c x kk &&& 0xF0FF = packXK c 0 kk := by
  rw [show (0xF0FF : Word) = packXK 0xF 0 0xFF from rfl, packXK_and]
  congr 1
  · exact BitVec.and_allOnes
  · exact BitVec.and_zero
  · exact BitVec.and_allOnes

theorem class_packXYN (c : Nibble) : packXYN c x y n &&& 0xF000 = packXYN c 0 0 0 := by
  rw [show (0xF000 : Word) = packXYN 0xF 0 0 0 from rfl, packXYN_and]
  congr 1
  · exact BitVec.and_allOnes
  · exact BitVec.and_zero
  · exact BitVec.and_zero
  · exact BitVec.and_zero

theorem sub_packXYN (c : Nibble) : packXYN c x y n &&& 0xF00F = packXYN c 0 0 n := by
  rw [show (0xF00F : Word) = packXYN 0xF 0 0 0xF from rfl, packXYN_and]
  congr 1
  · exact BitVec.and_allOnes
  · exact BitVec.and_zero
  · exact BitVec.and_zero
  · exact BitVec.and_allOnes

theorem TableWord.sys : TableWord.Statement (.sys nnn) := class_packA nnn _
theorem TableWord.cls : TableWord.Statement .cls := rfl
theorem TableWord.ret : TableWord.Statement .ret := rfl
theorem TableWord.jp : TableWord.Statement (.jp nnn) := class_packA nnn _
theorem TableWord.call : TableWord.Statement (.call nnn) := class_packA nnn _
theorem TableWord.seImm : TableWord.Statement (.seImm x kk) := class_packXK x kk _
theorem TableWord.sneImm : TableWord.Statement (.sneImm x kk) := class_packXK x kk _
theorem TableWord.seReg : TableWord.Statement (.seReg x y n) := class_packXYN x y n _
theorem TableWord.ldImm : TableWord.Statement (.ldImm x kk) := class_packXK x kk _
theorem TableWord.addImm : TableWord.Statement (.addImm x kk) := class_packXK x kk _
theorem TableWord.ldReg : TableWord.Statement (.ldReg x y) := sub_packXYN x y _ _
theorem TableWord.orReg : TableWord.Statement (.orReg x y) := sub_packXYN x y _ _
theorem TableWord.andReg : TableWord.Statement (.andReg x y) := sub_packXYN x y _ _
theorem TableWord.xorReg : TableWord.Statement (.xorReg x y) := sub_packXYN x y _ _
theorem TableWord.addReg : TableWord.Statement (.addReg x y) := sub_packXYN x y _ _
theorem TableWord.subReg : TableWord.Statement (.subReg x y) := sub_packXYN x y _ _
theorem TableWord.shrReg : TableWord.Statement (.shrReg x y) := sub_packXYN x y _ _
theorem TableWord.subnReg : TableWord.Statement (.subnReg x y) := sub_packXYN x y _ _
theorem TableWord.shlReg : TableWord.Statement (.shlReg x y) := sub_packXYN x y _ _
theorem TableWord.sneReg : TableWord.Statement (.sneReg x y n) := class_packXYN x y n _
theorem TableWord.ldI : TableWord.Statement (.ldI nnn) := class_packA nnn _
theorem TableWord.jpV0 : TableWord.Statement (.jpV0 nnn) := class_packA nnn _
theorem TableWord.rnd : TableWord.Statement (.rnd x kk) := class_packXK x kk _
theorem TableWord.drw : TableWord.Statement (.drw x y n) := class_packXYN x y n _
theorem TableWord.skp : TableWord.Statement (.skp x) := sub_packXK x _ _
theorem TableWord.sknp : TableWord.Statement (.sknp x) := sub_packXK x _ _
theorem TableWord.ldVxDt : TableWord.Statement (.ldVxDt x) := sub_packXK x _ _
theorem TableWord.ldVxK : TableWord.Statement (.ldVxK x) := sub_packXK x _ _
theorem TableWord.ldDtVx : TableWord.Statement (.ldDtVx x) := sub_packXK x _ _
theorem TableWord.ldStVx : TableWord.Statement (.ldStVx x) := sub_packXK x _ _
theorem TableWord.addIVx : TableWord.Statement (.addIVx x) := sub_packXK x _ _
theorem TableWord.ldFVx : TableWord.Statement (.ldFVx x) := sub_packXK x _ _
theorem TableWord.ldBVx : TableWord.Statement (.ldBVx x) := sub_packXK x _ _
theorem TableWord.ldMemVx : TableWord.Statement (.ldMemVx x) := sub_packXK x _ _
theorem TableWord.ldVxMem : TableWord.Statement (.ldVxMem x) := sub_packXK x _ _
theorem TableWord.unrec8XY8 : TableWord.Statement (.unrec8XY8 x y) := sub_packXYN x y _ _
theorem TableWord.unrec8XY9 : TableWord.Statement (.unrec8XY9 x y) := sub_packXYN x y _ _
theorem TableWord.unrec8XYA : TableWord.Statement (.unrec8XYA x y) := sub_packXYN x y _ _
theorem TableWord.unrec8XYB : TableWord.Statement (.unrec8XYB x y) := sub_packXYN x y _ _
theorem TableWord.unrec8XYC : TableWord.Statement (.unrec8XYC x y) := sub_packXYN x y _ _
theorem TableWord.unrec8XYD : TableWord.Statement (.unrec8XYD x y) := sub_packXYN x y _ _
theorem TableWord.unrec8XYF : TableWord.Statement (.unrec8XYF x y) := sub_packXYN x y _ _
theorem TableWord.unrecEXKK : TableWord.Statement (.unrecEXKK x kk) := class_packXK x kk _
theorem TableWord.unrecFXKK : TableWord.Statement (.unrecFXKK x kk) := class_packXK x kk _

end

end Sys2Proof.Laws
end

