-- ==== Sys2Proof/Tests/Slice0.lean ====
section
/-!
SUPPORT. The tests of the model, and a witness for each statement that has hypotheses. The expected
results are those of 95_test_vectors.md (the vector is named in the comment) or are worked out by hand
from the rule named.
-/

namespace Sys2Proof.Tests

open Sys2Proof Sys2Proof.Machine

/-! ### Helpers -/

/-- What `f` reads of the next state, and `none` where there is none. -/
def after {α : Type} (o : Host.Outcome State Fault Refusal) (f : State → α) : Option α :=
  match o with
  | .next t => some (f t)
  | .fault _ | .refused _ => none

/-- What `f` reads after one step on the word `w`, laid at the pc of `s`. -/
def run {α : Type} (w : Nat) (s : State) (f : State → α) : Option α :=
  after (step (s.withFetchWord 16 w)) f

/-- What `f` reads after a command. -/
def afterCommand {α : Type} (c : Command) (s : State) (f : State → Response → α) : Option α :=
  match s.command c with
  | .next (t, r) => some (f t r)
  | .fault _ | .refused _ => none

/-- The reset state with two registers set. -/
def withRegs (x : Reg) (a : Byte) (y : Reg) (b : Byte) : State :=
  (State.reset.setReg x a).setReg y b

/-- The reset state with I = 0x300 and bytes from there on. -/
def withBytes (bytes : List Byte) : State :=
  { State.reset with index := 0x300, mem := State.reset.mem.writeList 0x300 bytes }

/-- The reset state with a stack of `n` entries, entry 0 being 0x206 and entry 15 being 0x3A2. -/
def withStack (n : Byte) : State :=
  { State.reset with
      sp := n, stack := ((Vector.replicate 16 0).set 0 0x206).set 15 0x3A2 }

/-- A state in which a CALL has overflowed the stack (95_test_vectors.md X-2). -/
def overflowed : State :=
  { (withStack 16).placeWord 0x2300 with fault := .stackOverflow }

/-! ### WellFormed refuses what another row takes -/

/-- 30_encoding.md R77: 00E0 and 00EE are not SYS. -/
theorem test_wellFormed_sys :
    WellFormed (.sys 0x0E0) = false ∧ WellFormed (.sys 0x0EE) = false ∧
    WellFormed (.sys 0x0E1) = true := by decide

/-- 30_encoding.md R79: EX9E and EXA1 are not unrecognized. -/
theorem test_wellFormed_classE :
    WellFormed (.unrecEXKK 0x1 0x9E) = false ∧ WellFormed (.unrecEXKK 0x1 0xA1) = false ∧
    WellFormed (.unrecEXKK 0x1 0x9F) = true := by decide

/-- 30_encoding.md R80: the nine sub-operations of class 0xF are not unrecognized. -/
theorem test_wellFormed_classF :
    WellFormed (.unrecFXKK 0x1 0x07) = false ∧ WellFormed (.unrecFXKK 0x1 0x0A) = false ∧
    WellFormed (.unrecFXKK 0x1 0x15) = false ∧ WellFormed (.unrecFXKK 0x1 0x18) = false ∧
    WellFormed (.unrecFXKK 0x1 0x1E) = false ∧ WellFormed (.unrecFXKK 0x1 0x29) = false ∧
    WellFormed (.unrecFXKK 0x1 0x33) = false ∧ WellFormed (.unrecFXKK 0x1 0x55) = false ∧
    WellFormed (.unrecFXKK 0x1 0x65) = false ∧ WellFormed (.unrecFXKK 0x1 0x75) = true := by
  decide

/-! ### Decoding: a word written out from its row of 30_encoding.md R85 or R83 -/

/-- Class 0 and the absolute jumps (E-2, E-3, E-6, E-7, E-20). -/
theorem test_decode_control :
    decodeWord 0x0FFF = .sys 0xFFF ∧ decodeWord 0x00E0 = .cls ∧ decodeWord 0x00EE = .ret ∧
    decodeWord 0x1ABC = .jp 0xABC ∧ decodeWord 0x2210 = .call 0x210 ∧
    decodeWord 0xB301 = .jpV0 0x301 := by decide

/-- The skips (E-8, E-9, E-13). -/
theorem test_decode_skips :
    decodeWord 0x332A = .seImm 0x3 0x2A ∧ decodeWord 0x4A0B = .sneImm 0xA 0x0B ∧
    decodeWord 0x5121 = .seReg 0x1 0x2 0x1 ∧ decodeWord 0x9AB7 = .sneReg 0xA 0xB 0x7 ∧
    decodeWord 0xE19E = .skp 0x1 ∧ decodeWord 0xECA1 = .sknp 0xC := by decide

/-- Classes 6, 7, 8 and C (E-12). -/
theorem test_decode_arithmetic :
    decodeWord 0x6A2B = .ldImm 0xA 0x2B ∧ decodeWord 0x71FF = .addImm 0x1 0xFF ∧
    decodeWord 0x8120 = .ldReg 0x1 0x2 ∧ decodeWord 0x8341 = .orReg 0x3 0x4 ∧
    decodeWord 0x8562 = .andReg 0x5 0x6 ∧ decodeWord 0x8783 = .xorReg 0x7 0x8 ∧
    decodeWord 0x89A4 = .addReg 0x9 0xA ∧ decodeWord 0x8BC5 = .subReg 0xB 0xC ∧
    decodeWord 0x8DE6 = .shrReg 0xD 0xE ∧ decodeWord 0x8F07 = .subnReg 0xF 0x0 ∧
    decodeWord 0x8ABE = .shlReg 0xA 0xB ∧ decodeWord 0xC30F = .rnd 0x3 0x0F := by decide

/-- The index register, memory and the display (E-18, E-19). -/
theorem test_decode_memory :
    decodeWord 0xA20A = .ldI 0x20A ∧ decodeWord 0xF21E = .addIVx 0x2 ∧
    decodeWord 0xF429 = .ldFVx 0x4 ∧ decodeWord 0xF633 = .ldBVx 0x6 ∧
    decodeWord 0xF355 = .ldMemVx 0x3 ∧ decodeWord 0xFF65 = .ldVxMem 0xF ∧
    decodeWord 0xD12F = .drw 0x1 0x2 0xF := by decide

/-- Keys and timers (E-15). -/
theorem test_decode_timers :
    decodeWord 0xF107 = .ldVxDt 0x1 ∧ decodeWord 0xF10A = .ldVxK 0x1 ∧
    decodeWord 0xF015 = .ldDtVx 0x0 ∧ decodeWord 0xF218 = .ldStVx 0x2 := by decide

/-- The unrecognized rows (E-10, E-11, E-14, E-16, E-17). -/
theorem test_decode_unrecognized :
    decodeWord 0x8AB8 = .unrec8XY8 0xA 0xB ∧ decodeWord 0x8129 = .unrec8XY9 0x1 0x2 ∧
    decodeWord 0x812A = .unrec8XYA 0x1 0x2 ∧ decodeWord 0x812B = .unrec8XYB 0x1 0x2 ∧
    decodeWord 0x812C = .unrec8XYC 0x1 0x2 ∧ decodeWord 0x812D = .unrec8XYD 0x1 0x2 ∧
    decodeWord 0x8ABF = .unrec8XYF 0xA 0xB ∧ decodeWord 0xE19F = .unrecEXKK 0x1 0x9F ∧
    decodeWord 0xF100 = .unrecFXKK 0x1 0x00 ∧ decodeWord 0xF175 = .unrecFXKK 0x1 0x75 := by
  decide

/-- 30_encoding.md R70, 20_memory.md R55: two bytes, the first one high; fewer are no instruction. -/
theorem test_decode_bytes :
    decode [0x12, 0x34, 0x56] = .ok (.jp 0x234, [0x56]) ∧ decode [0x12] = .error .truncated ∧
    decode [] = .error .truncated ∧ decodeTableWord 16 0x1234 = some (.jp 0x234) := by decide

/-! ### Fetch -/

/-- E-21 and E-22: an odd pc, and a word that wraps from 0xFFF to 0x000 (the font's first byte is F0). -/
theorem test_fetch_unaligned_and_wrapped :
    after (step { State.reset with pc := 0x201, mem := State.reset.mem.writeList 0x201 [0x61, 0x05] })
      (fun t => (t.reg 1, t.pc)) = some (0x05, 0x203) ∧
    after (step { State.reset with pc := 0xFFF, mem := State.reset.mem.write 0xFFF 0x12 })
      (fun t => t.pc) = some 0x2F0 := by decide

/-- E-23 and E-24: the pc is a 16-bit register and its accesses are reduced. -/
theorem test_fetch_beyond_memory :
    after (step { State.reset with pc := 0x1000 }) (fun t => t.pc) = some 0x1002 ∧
    after (step { State.reset with pc := 0xFFFE }) (fun t => t.pc) = some 0x0000 := by decide

/-! ### Control transfer and skips -/

/-- C-1, and the no-ops of E-10 to E-17: only the pc moves. -/
theorem test_no_ops :
    [0x0123, 0x8AB8, 0x8AB9, 0x8ABA, 0x8ABB, 0x8ABC, 0x8ABD, 0x8ABF, 0xE19F, 0xF100].all
      (fun w => run w State.reset (fun t => decide (t = (State.reset.withFetchWord 16 w).advancePc))
        == some true) = true := by decide

/-- C-3 and C-20: JP, and JP V0 past the top of memory. -/
theorem test_jp :
    run 0x1FFF State.reset (fun t => t.pc) = some 0x0FFF ∧
    run 0xBFFF (State.reset.setReg 0 0xFF) (fun t => t.pc) = some 0x10FE := by decide

/-- C-6: the last CALL that fits. -/
theorem test_call :
    run 0x2210 { withStack 15 with pc := 0x204 } (fun t => (t.stack[15], t.sp, t.pc)) =
      some (0x206, 16, 0x210) := by decide

/-- X-2: a CALL on a full stack. -/
theorem test_call_overflow :
    run 0x2300 { withStack 16 with pc := 0x300 } (fun t => (t.fault, t.pc, t.sp, t.stack[15])) =
      some (.stackOverflow, 0x300, 16, 0x3A2) := by decide

/-- C-7 and C-8: RET, which leaves the entry. -/
theorem test_ret :
    run 0x00EE (withStack 1) (fun t => (t.sp, t.pc, t.stack[0])) = some (0, 0x206, 0x206) ∧
    run 0x00EE (withStack 16) (fun t => (t.sp, t.pc)) = some (15, 0x3A2) := by decide

/-- X-1: a RET on an empty stack. -/
theorem test_ret_underflow :
    run 0x00EE State.reset (fun t => (t.fault, t.pc, t.sp)) =
      some (.stackUnderflow, 0x200, 0) := by decide

/-- C-9 to C-12: SE and SNE with an immediate. -/
theorem test_skip_immediate :
    run 0x332A (State.reset.setReg 3 0x2A) (fun t => t.pc) = some 0x204 ∧
    run 0x332A (State.reset.setReg 3 0x2B) (fun t => t.pc) = some 0x202 ∧
    run 0x432A (State.reset.setReg 3 0x2A) (fun t => t.pc) = some 0x202 ∧
    run 0x432A State.reset (fun t => t.pc) = some 0x204 := by decide

/-- C-14, C-15, C-17 and C-18: SE and SNE of two registers; the low nibble is ignored. -/
theorem test_skip_register :
    run 0x5120 (withRegs 1 0x07 2 0x08) (fun t => t.pc) = some 0x202 ∧
    run 0x5121 (withRegs 1 0x07 2 0x07) (fun t => t.pc) = some 0x204 ∧
    run 0x9120 (withRegs 1 0x07 2 0x08) (fun t => t.pc) = some 0x204 ∧
    run 0x9110 (withRegs 1 0x07 2 0x08) (fun t => t.pc) = some 0x202 := by decide

/-- C-23: a skip wraps at 16 bits. -/
theorem test_skip_wraps :
    run 0x3000 { State.reset with pc := 0xFFFE } (fun t => t.pc) = some 0x0002 := by decide

/-! ### Loads, arithmetic and logic: Vx and VF after it -/

/-- A-1 and A-4. -/
theorem test_loads :
    run 0x6A2B State.reset (fun t => t.reg 0xA) = some 0x2B ∧
    run 0x8120 (State.reset.setReg 2 0x11) (fun t => t.reg 1) = some 0x11 := by decide

/-- A-2 and F-20: no carry flag. -/
theorem test_addImm :
    run 0x7101 (withRegs 1 0xFF 0xF 0x07) (fun t => (t.reg 1, t.reg 0xF)) = some (0x00, 0x07) ∧
    run 0x7FFF (State.reset.setReg 0xF 0x01) (fun t => t.reg 0xF) = some 0x00 := by decide

/-- A-5, A-6 and A-7. -/
theorem test_logic :
    run 0x8121 ((withRegs 1 0x0F 2 0xF0).setReg 0xF 0x07) (fun t => (t.reg 1, t.reg 0xF)) =
      some (0xFF, 0x07) ∧
    run 0x8122 (withRegs 1 0x3C 2 0x0F) (fun t => t.reg 1) = some 0x0C ∧
    run 0x8123 (withRegs 1 0x3C 2 0x0F) (fun t => t.reg 1) = some 0x33 := by decide

/-- A-9, A-10 and F-1: the carry, and VF as the destination. -/
theorem test_addReg :
    run 0x8124 (withRegs 1 0x80 2 0x7F) (fun t => (t.reg 1, t.reg 0xF)) = some (0xFF, 0) ∧
    run 0x8124 (withRegs 1 0x80 2 0x80) (fun t => (t.reg 1, t.reg 0xF)) = some (0x00, 1) ∧
    run 0x8F24 (withRegs 0xF 0x05 2 0xFF) (fun t => t.reg 0xF) = some 0x04 := by decide

/-- A-13, A-14, A-15: SUB, its flag strict. -/
theorem test_subReg :
    run 0x8125 (withRegs 1 0x01 2 0x02) (fun t => (t.reg 1, t.reg 0xF)) = some (0xFF, 0) ∧
    run 0x8125 (withRegs 1 0x05 2 0x03) (fun t => (t.reg 1, t.reg 0xF)) = some (0x02, 1) ∧
    run 0x8125 (withRegs 1 0x03 2 0x03) (fun t => (t.reg 1, t.reg 0xF)) = some (0x00, 0) := by
  decide

/-- F-4, F-5 and F-6: SUB with VF among its registers. -/
theorem test_subReg_flag_operand :
    run 0x8F25 (withRegs 0xF 0x05 2 0x03) (fun t => t.reg 0xF) = some 0xFE ∧
    run 0x81F5 (withRegs 1 0x0A 0xF 0x03) (fun t => (t.reg 1, t.reg 0xF)) = some (0x09, 1) ∧
    run 0x8FF5 (State.reset.setReg 0xF 0x07) (fun t => t.reg 0xF) = some 0x00 := by decide

/-- A-19, F-8 and F-9: SHR reads Vy. -/
theorem test_shrReg :
    run 0x8126 (withRegs 1 0xAA 2 0x05) (fun t => (t.reg 1, t.reg 0xF)) = some (0x02, 1) ∧
    run 0x81F6 (State.reset.setReg 0xF 0x05) (fun t => (t.reg 1, t.reg 0xF)) = some (0x00, 1) ∧
    run 0x8FF6 (State.reset.setReg 0xF 0x05) (fun t => t.reg 0xF) = some 0x00 := by decide

/-- A-23, A-24, F-10 and F-11: SUBN. -/
theorem test_subnReg :
    run 0x8127 (withRegs 1 0x02 2 0x01) (fun t => (t.reg 1, t.reg 0xF)) = some (0xFF, 0) ∧
    run 0x8127 (withRegs 1 0x01 2 0x05) (fun t => (t.reg 1, t.reg 0xF)) = some (0x04, 1) ∧
    run 0x8F27 (withRegs 0xF 0x03 2 0x05) (fun t => t.reg 0xF) = some 0x04 ∧
    run 0x81F7 (withRegs 1 0x03 0xF 0x0A) (fun t => (t.reg 1, t.reg 0xF)) = some (0xFE, 1) := by
  decide

/-- A-26, A-27, F-14 and F-16: SHL reads Vy. -/
theorem test_shlReg :
    run 0x812E (State.reset.setReg 2 0x81) (fun t => (t.reg 1, t.reg 0xF)) = some (0x02, 1) ∧
    run 0x812E (State.reset.setReg 2 0x7F) (fun t => (t.reg 1, t.reg 0xF)) = some (0xFE, 0) ∧
    run 0x81FE (State.reset.setReg 0xF 0xC0) (fun t => (t.reg 1, t.reg 0xF)) = some (0x02, 1) ∧
    run 0x8FFE (State.reset.setReg 0xF 0xC0) (fun t => t.reg 0xF) = some 0x02 := by decide

/-- A-30: with a mask of 0 the draw does not show. -/
theorem test_rnd_mask_zero :
    after (exec (.rnd 3 0x00) State.reset) (fun t => t.reg 3) = some 0x00 := by
  simp [exec, execRnd, after, State.reg, State.setReg]

/-- A-32: with mask F0 the low nibble is 0 under every draw. -/
theorem test_rnd_mask_high :
    after (exec (.rnd 3 0xF0) State.reset) (fun t => t.reg 3 &&& 0x0F) = some 0x00 := by
  simp [exec, execRnd, after, State.reg, State.setReg, BitVec.and_assoc]

/-! ### Index register and memory -/

/-- M-1, M-3 and M-4. -/
theorem test_index :
    run 0xA300 State.reset (fun t => t.index) = some 0x0300 ∧
    run 0xF21E { State.reset.setReg 2 1 with index := 0x0FFF } (fun t => (t.index, t.reg 0xF)) =
      some (0x1000, 0x00) ∧
    run 0xF21E { State.reset.setReg 2 1 with index := 0xFFFF } (fun t => t.index) =
      some 0x0000 := by decide

/-- M-5 and M-9. -/
theorem test_ldF :
    run 0xF429 (State.reset.setReg 4 0x0A) (fun t => t.index) = some 0x032 ∧
    run 0xF429 (State.reset.setReg 4 0xFF) (fun t => t.index) = some 0x4FB := by decide

/-- M-10. -/
theorem test_ldB :
    run 0xF033 { State.reset.setReg 0 0xFE with index := 0x300 }
      (fun t => (t.memRead 0x300, t.memRead 0x301, t.memRead 0x302, t.index)) =
      some (2, 5, 4, 0x300) := by decide

/-- M-13: the digits wrap over the top of memory. -/
theorem test_ldB_wraps :
    run 0xF033 { State.reset.setReg 0 0x7B with index := 0xFFE }
      (fun t => (t.memRead 0xFFE, t.memRead 0xFFF, t.memRead 0x000)) = some (1, 2, 3) := by decide

/-- M-15: FX55 with x = 0 stores one byte. -/
theorem test_block_store :
    run 0xF055 { withRegs 0 0xAB 1 0xCD with index := 0x500 }
      (fun t => (t.memRead 0x500, t.memRead 0x501, t.index)) = some (0xAB, 0, 0x500) := by decide

/-- M-16, its ends: all sixteen registers, over the top of memory; byte 8 of the font (10_state.md R37) stays. -/
theorem test_block_store_wraps :
    run 0xFF55 { withRegs 7 0x07 0xF 0x0F with index := 0xFF8 }
      (fun t => (t.memRead 0xFFF, t.memRead 0x000, t.memRead 0x007, t.memRead 0x008)) =
      some (0x07, 0x00, 0x0F, 0x20) := by decide

/-- M-17. -/
theorem test_block_load :
    run 0xF265 ((withBytes [2, 5, 4, 9]).setReg 3 0x77)
      (fun t => (t.reg 0, t.reg 1, t.reg 2, t.reg 3, t.index)) =
      some (2, 5, 4, 0x77, 0x300) := by decide

/-- F-19 and M-18. -/
theorem test_block_load_ends :
    run 0xFF65 (withBytes (List.replicate 15 0 ++ [0x99])) (fun t => t.reg 0xF) = some 0x99 ∧
    run 0xF065 State.reset (fun t => t.reg 0) = some 0xF0 := by decide

/-! ### Display -/

/-- P-1. -/
theorem test_cls :
    run 0x00E0 (((State.reset.flipPixel 5 5).flipPixel 63 31).setReg 0xF 1)
      (fun t => (t.pixel 5 5, t.pixel 63 31, t.dirty, t.reg 0xF)) =
      some (false, false, true, 1) := by decide

/-- P-3: a sprite is clipped at the right edge. -/
theorem test_drw_clips :
    run 0xD012 ((withBytes [0xFF, 0xFF]).setReg 0 60)
      (fun t => (t.pixel 60 0, t.pixel 63 1, t.pixel 59 0, t.pixel 0 0, t.reg 0xF, t.dirty)) =
      some (true, true, false, false, 0, true) := by decide

/-- P-10: XOR and the collision. -/
theorem test_drw_collision :
    run 0xD011 ((withBytes [0xC0]).flipPixel 0 0)
      (fun t => (t.pixel 0 0, t.pixel 1 0, t.reg 0xF)) = some (false, true, 1) := by decide

/-- F-17 and P-5: the origin is read before VF is reset, and wraps. -/
theorem test_drw_origin :
    run 0xDF11 ((withBytes [0x80]).setReg 0xF 0x10) (fun t => (t.pixel 16 0, t.pixel 0 0)) =
      some (true, false) ∧
    run 0xD011 (((withBytes [0x80]).setReg 0 0x40).setReg 1 0x20) (fun t => t.pixel 0 0) =
      some true := by decide

/-- P-7: no rows. -/
theorem test_drw_no_rows :
    run 0xD010 (State.reset.setReg 0xF 1) (fun t => (decide (t.fb = blankGrid), t.reg 0xF, t.dirty)) =
      some (true, 0, true) := by decide

/-! ### Keys and timers -/

/-- K-1 to K-4. -/
theorem test_key_skips :
    run 0xE59E ((State.reset.setReg 5 3).setKey 3 true) (fun t => t.pc) = some 0x204 ∧
    run 0xE59E (State.reset.setReg 5 3) (fun t => t.pc) = some 0x202 ∧
    run 0xE5A1 (State.reset.setReg 5 3) (fun t => t.pc) = some 0x204 ∧
    run 0xE5A1 ((State.reset.setReg 5 3).setKey 3 true) (fun t => t.pc) = some 0x202 := by decide

/-- K-5, K-7 and K-9. -/
theorem test_key_wait :
    run 0xF50A State.reset (fun t => (t.pc, t.reg 5)) = some (0x200, 0) ∧
    run 0xF50A ((State.reset.setKey 7 true).setKey 3 true) (fun t => (t.reg 5, t.pc)) =
      some (3, 0x202) ∧
    run 0xFF0A (State.reset.setKey 9 true) (fun t => t.reg 0xF) = some 9 := by decide

/-- K-10, K-11 and K-11b. -/
theorem test_timer_transfers :
    run 0xF107 { State.reset with dt := 0x3C } (fun t => t.reg 1) = some 0x3C ∧
    run 0xF015 (State.reset.setReg 0 3) (fun t => (t.dt, t.st)) = some (3, 0) ∧
    run 0xF218 (State.reset.setReg 2 0x0A) (fun t => (t.dt, t.st, t.isSoundActive)) =
      some (0, 0x0A, true) := by decide

/-! ### Commands and faults -/

/-- K-13 and K-15. -/
theorem test_tickTimers :
    afterCommand .tickTimers State.reset (fun t _ => (t.dt, t.st)) = some (0, 0) ∧
    afterCommand .tickTimers { State.reset with dt := 0xFF, st := 0x02 }
      (fun t _ => (t.dt, t.st)) = some (0xFE, 0x01) := by decide

/-- K-14 and K-16. -/
theorem test_gate_and_setKey :
    afterCommand .isSoundActive { State.reset with st := 1 } (fun _ r => r) =
      some (.soundActive true) ∧
    afterCommand .isSoundActive State.reset (fun _ r => r) = some (.soundActive false) ∧
    afterCommand (.setKey 3 false) (State.reset.setKey 3 true) (fun t _ => t.keyDown 3) =
      some false := by decide

/-- X-3, X-4 and X-5. -/
theorem test_fault_is_sticky :
    after (step overflowed) (fun t => decide (t = overflowed)) = some true ∧
    afterCommand .tickTimers { overflowed with dt := 2 } (fun t _ => (t.dt, t.fault)) =
      some (1, .stackOverflow) ∧
    afterCommand .getFault overflowed (fun _ r => r) = some (.faultCode .stackOverflow) := by
  decide

/-- H-1, H-5 and X-6. -/
theorem test_reset_and_load :
    afterCommand .reset (overflowed.setKey 4 true) (fun t _ => decide (t = State.reset)) =
      some true ∧
    afterCommand (.load [0x6A, 0x2B]) overflowed
      (fun t r => (t.memRead 0x200, t.memRead 0x201, t.memRead 0x202, t.fault, r)) =
      some (0x6A, 0x2B, 0, .none, .loadResult .ok) := by decide

/-- H-5: the program that Load copied runs. -/
theorem test_load_then_execute :
    (match State.reset.schedule [.load [0x6A, 0x2B], .execute] with
     | .next (t, _) => some (t.reg 0xA, t.pc)
     | .fault _ | .refused _ => none) = some (0x2B, 0x202) := by decide

/-- H-6. -/
theorem test_dirty_flag_is_consumed :
    (match State.reset.schedule [.load [0x00, 0xE0], .execute, .consumeDirtyFlag, .consumeDirtyFlag] with
     | .next (_, rs) => rs
     | .fault _ | .refused _ => []) =
      [.loadResult .ok, .nothing, .dirtyFlag true, .dirtyFlag false] := by decide

/-! ### Witnesses: the hypotheses of each statement are met, at a boundary of each clause -/

/-- `StepRunsDecodedInstruction`, at a pc whose second byte wraps. -/
theorem witness_stepRunsDecodedInstruction :
    let s : State := { State.reset with pc := 0xFFF, mem := State.reset.mem.write 0xFFF 0x12 }
    s.fault = .none ∧
    decode [s.memRead s.pc.toNat, s.memRead (s.pc.toNat + 1)] = .ok (.jp 0x2F0, []) := by decide

/-- `DecodeInvertsEncode`, at the ends of the operand ranges. -/
theorem witness_decodeInvertsEncode :
    WellFormed (.sys 0xFFF) = true ∧ WellFormed (.drw 0xF 0xF 0xF) = true ∧
    WellFormed (.unrecEXKK 0x0 0xFF) = true ∧ WellFormed (.unrecFXKK 0xF 0x00) = true := by decide

/-- `DrawsAreIgnoredByOtherInstructions`: a plain instruction, and a key test of the last key number. -/
theorem witness_drawsAreIgnored :
    readsDraw (.jp 0x234) State.reset = false ∧
    exec (.jp 0x234) State.reset = .next (State.reset.setPc 0x234) ∧
    readsDraw (.skp 1) (State.reset.setReg 1 0xF) = false ∧
    exec (.skp 1) (State.reset.setReg 1 0xF) = .next (State.reset.setReg 1 0xF) :=
  ⟨rfl, rfl, rfl, rfl⟩

/-- `SysIsNoOp`: words on either side of the two that are taken from it. -/
theorem witness_sysIsNoOp :
    [0x0000, 0x00DF, 0x00E1, 0x00ED, 0x00EF, 0x0FFF].all (fun w : Word =>
      decide (w &&& 0xF000 = 0x0000 ∧ w ≠ 0x00E0 ∧ w ≠ 0x00EE)) = true := by decide

/-- `UnrecognizedWordsAreNoOps`: a word for each of its clauses. -/
theorem witness_unrecognizedWords :
    ((0x8AB8 : Word) &&& 0xF00F = 0x8008 ∧ (0x8FF9 : Word) &&& 0xF00F = 0x8009 ∧
      (0x800A : Word) &&& 0xF00F = 0x800A ∧ (0x8FFB : Word) &&& 0xF00F = 0x800B ∧
      (0x800C : Word) &&& 0xF00F = 0x800C ∧ (0x8FFD : Word) &&& 0xF00F = 0x800D ∧
      (0x800F : Word) &&& 0xF00F = 0x800F) ∧
    ((0xE19F : Word) &&& 0xF000 = 0xE000 ∧ fieldKk 0xE19F ≠ 0x9E ∧ fieldKk 0xE19F ≠ 0xA1) ∧
    ((0xF1FF : Word) &&& 0xF000 = 0xF000 ∧ fieldKk 0xF1FF ∉ classFSubOps) := by decide

/-- The `DecodesAs` clauses of the statements about single operations: a word, its mask and its pattern. -/
theorem witness_decodesAs :
    ([(0x00E0, 0xFFFF, 0x00E0), (0x00EE, 0xFFFF, 0x00EE), (0x1ABC, 0xF000, 0x1000),
      (0x2FFF, 0xF000, 0x2000), (0x3F00, 0xF000, 0x3000), (0x4FFF, 0xF000, 0x4000),
      (0x512F, 0xF000, 0x5000), (0x6A2B, 0xF000, 0x6000), (0x7FFF, 0xF000, 0x7000)] ++
     [(0x8FF0, 0xF00F, 0x8000), (0x8121, 0xF00F, 0x8001), (0x8122, 0xF00F, 0x8002),
      (0x8123, 0xF00F, 0x8003), (0x8124, 0xF00F, 0x8004), (0x8125, 0xF00F, 0x8005),
      (0x8126, 0xF00F, 0x8006), (0x8127, 0xF00F, 0x8007), (0x812E, 0xF00F, 0x800E)] ++
     [(0x9ABF, 0xF000, 0x9000), (0xAFFF, 0xF000, 0xA000), (0xB000, 0xF000, 0xB000),
      (0xCFFF, 0xF000, 0xC000), (0xDFFF, 0xF000, 0xD000), (0xEF9E, 0xF0FF, 0xE09E),
      (0xE0A1, 0xF0FF, 0xE0A1), (0xF107, 0xF0FF, 0xF007), (0xF10A, 0xF0FF, 0xF00A)] ++
     [(0xF115, 0xF0FF, 0xF015), (0xF118, 0xF0FF, 0xF018), (0xF11E, 0xF0FF, 0xF01E),
      (0xF129, 0xF0FF, 0xF029), (0xF133, 0xF0FF, 0xF033), (0xF155, 0xF0FF, 0xF055),
      (0xF165, 0xF0FF, 0xF065)] : List (Word × Word × Word)).all
      (fun p => decide (p.1 &&& p.2.1 = p.2.2)) = true := by decide

/-- `CallPushesReturnAddress`: the clauses meet at sp = 15, 16 and 17. -/
theorem witness_call :
    (withStack 0).sp.toNat < 16 ∧ (withStack 15).sp.toNat < 16 ∧ (withStack 16).sp.toNat = 16 ∧
    16 < (withStack 17).sp.toNat := by decide

/-- `RetPopsReturnAddress`: the clauses meet at sp = 0, 1, 16 and 17. -/
theorem witness_ret :
    (withStack 0).sp.toNat = 0 ∧ (0 < (withStack 1).sp.toNat ∧ (withStack 1).sp.toNat ≤ 16) ∧
    (0 < (withStack 16).sp.toNat ∧ (withStack 16).sp.toNat ≤ 16) ∧
    16 < (withStack 17).sp.toNat := by decide

/-- The statements about one destination register: a register that is not x, and for ADD, SUB, SUBN, SHR and SHL
also an x that is not VF and a register that is neither. -/
theorem witness_otherRegister :
    (0xF : Reg) ≠ 0x0 ∧ (0x0 : Reg) ≠ regF ∧ (0x1 : Reg) ≠ 0x0 ∧ (0x1 : Reg) ≠ regF := by decide

/-- `SubSetsStrictGreaterFlag`, x not VF with a borrow, y = VF, and x = y = VF. -/
theorem witness_sub :
    (let s := withRegs 1 0x03 2 0x03
     (0 : Byte) = (if (s.reg 1).toNat > (s.reg 2).toNat then 1 else 0) ∧
     (3 : Byte) = (if (1 : Reg) = regF then 0 else s.reg 1) ∧
     (3 : Byte) = (if (2 : Reg) = regF then 0 else s.reg 2)) ∧
    (let s := withRegs 1 0x0A 0xF 0x03
     (1 : Byte) = (if (s.reg 1).toNat > (s.reg regF).toNat then 1 else 0) ∧
     (0x0A : Byte) = (if (1 : Reg) = regF then 1 else s.reg 1) ∧
     (1 : Byte) = (if regF = regF then 1 else s.reg regF)) := by decide

/-- `SubnSetsStrictGreaterFlag`, with x = VF. -/
theorem witness_subn :
    let s := withRegs 0xF 0x03 2 0x05
    (1 : Byte) = (if (s.reg 2).toNat > (s.reg regF).toNat then 1 else 0) ∧
    (1 : Byte) = (if regF = regF then 1 else s.reg regF) ∧
    (5 : Byte) = (if (2 : Reg) = regF then 1 else s.reg 2) := by decide

/-- `ShiftsMoveVyAndSetFlag`, with y not VF and with y = VF. -/
theorem witness_shifts :
    (let s := State.reset.setReg 2 0x81
     (1 : Byte).toNat = (s.reg 2).toNat % 2 ∧ (1 : Byte).toNat = (s.reg 2).toNat / 128 ∧
     (0x81 : Byte) = (if (2 : Reg) = regF then 1 else s.reg 2)) ∧
    (let s := State.reset.setReg 0xF 0xC0
     (0 : Byte).toNat = (s.reg regF).toNat % 2 ∧ (1 : Byte).toNat = (s.reg regF).toNat / 128 ∧
     (0 : Byte) = (if regF = regF then 0 else s.reg regF) ∧
     (1 : Byte) = (if regF = regF then 1 else s.reg regF)) := by decide

/-- `RndMasksDraw`: a bit that is 0 in the mask. -/
theorem witness_rnd : (0x0F : Byte).getLsbD 7 = false := by decide

/-- `LdBStoresDecimalDigits`: an address outside the three, beside them and where they wrap. -/
theorem witness_ldB :
    let s : State := { State.reset with index := 0xFFE }
    (∀ k < 3, busAddress 0x001 ≠ busAddress (dataAddress s k)) ∧
    (∀ k < 3, busAddress 0xFFD ≠ busAddress (dataAddress s k)) := by decide

/-- `BlockStoreWritesRegisters`: the last register stored, and the addresses on either side of the block. -/
theorem witness_blockStore :
    let s : State := { State.reset with index := 0xFF8 }
    (0xF : Reg) ≤ 0xF ∧ (0x0 : Reg) ≤ 0x0 ∧
    (∀ k ≤ (0xF : Reg).toNat, busAddress 0x008 ≠ busAddress (dataAddress s k)) ∧
    (∀ k ≤ (0xF : Reg).toNat, busAddress 0xFF7 ≠ busAddress (dataAddress s k)) := by decide

/-- `BlockLoadReadsRegisters`: a register loaded and the first one that is not. -/
theorem witness_blockLoad : (0x2 : Reg) ≤ 0x2 ∧ (0x2 : Reg) < 0x3 := by decide

/-- `BlockStoreThenLoadRestores`: the stored state with its registers cleared. -/
theorem witness_blockStoreThenLoad :
    let s : State := { withRegs 0 1 3 4 with index := 0x400 }
    let t : State := storeRegs s 4
    let u : State := { t with v := Vector.replicate 16 0 }
    exec (.ldMemVx 3) s = .next t ∧ u.index = t.index ∧ Part.same .mem t u ∧
      (3 : Reg) ≤ 3 :=
  ⟨rfl, rfl, fun _ => rfl, by decide⟩

/-- `StoredCodeIsFetched`: M-19, its pc at the first stored byte. -/
theorem witness_storedCode :
    let s : State := { withRegs 0 0x12 1 0x0A with index := 0x20A }
    let t : State := storeRegs s 2
    let u : State := { t with pc := 0x20A }
    exec (.ldMemVx 1) s = .next t ∧ (0 : Reg) < 1 ∧ Part.same .mem t u ∧
      busAddress u.pc.toNat = busAddress (dataAddress s (0 : Reg).toNat) :=
  ⟨rfl, by decide, fun _ => rfl, by decide⟩

/-- `DrwXorsClippedSprite`: its origin, a covered cell at the grid's edge that is off, and one that is not
covered (P-6). -/
theorem witness_drw :
    let s := (withBytes [0xC0]).setReg 0 0xFF
    63 = (s.reg 0).toNat % 64 ∧ 31 = (s.reg 0).toNat % 32 ∧
    SpriteCovers s 63 31 (1 : Nibble).toNat 63 31 ∧
    ¬ SpriteCovers s 63 31 (0 : Nibble).toNat 63 31 ∧ s.pixel 63 31 = false :=
  ⟨by decide, by decide, ⟨0, by decide, 0, by decide, by decide, by decide, by decide⟩,
   fun ⟨_, h, _⟩ => absurd h (Nat.not_lt_zero _), by decide⟩

/-- `DrwXorsClippedSprite`: a collision, and no collision on a blank screen. -/
theorem witness_drw_collision :
    (∃ cx cy, SpriteCovers ((withBytes [0xC0]).flipPixel 0 0) 0 0 (1 : Nibble).toNat cx cy ∧
      ((withBytes [0xC0]).flipPixel 0 0).pixel cx cy = true) ∧
    ¬ ∃ cx cy, SpriteCovers (withBytes [0xC0]) 0 0 (1 : Nibble).toNat cx cy ∧
      (withBytes [0xC0]).pixel cx cy = true := by
  refine ⟨⟨0, 0, ⟨0, by decide, 0, by decide, by decide, by decide, by decide⟩, by decide⟩, ?_⟩
  rintro ⟨cx, cy, -, h⟩
  simp [withBytes, State.reset, State.pixel, Grid.cell, blankGrid] at h

/-- `DrwTwiceRestoresFramebuffer`: coordinates not in VF, and a visible lit bit. -/
theorem witness_drwTwice :
    (0 : Reg) ≠ regF ∧ (0xE : Reg) ≠ regF ∧
    SpriteCovers (withBytes [0x80]) (((withBytes [0x80]).reg 0).toNat % 64)
      (((withBytes [0x80]).reg 0xE).toNat % 32) (1 : Nibble).toNat 0 0 :=
  ⟨by decide, by decide, ⟨0, by decide, 0, by decide, by decide, by decide, by decide⟩⟩

/-- `RedrawAtSameOriginRestoresFramebuffer`: F-17, with VF as the column: the second draw takes it from V0, and its origin is
the first one's modulo 64. -/
theorem witness_redraw :
    let s : State := (withBytes [0x80]).setReg 0xF 0x10
    let t : State := ((s.setFlag 0).drawRows 16 0 1).setDirty true
    let w : State := t.setReg 0 0x50
    exec (.drw 0xF 1 1) s = .next t ∧ w.index = t.index ∧ Part.same .mem t w ∧
      Part.same .fb t w ∧ (w.reg 0).toNat % 64 = (s.reg 0xF).toNat % 64 ∧
      (w.reg 1).toNat % 32 = (s.reg 1).toNat % 32 ∧ SpriteCovers s 16 0 (1 : Nibble).toNat 16 0 :=
  ⟨rfl, rfl, fun _ => rfl, fun _ _ => rfl, by decide, by decide,
   ⟨0, by decide, 0, by decide, by decide, by decide, by decide⟩⟩

/-- `KeySkipsTestLatch`: the clauses meet at 0xF and 0x10. -/
theorem witness_keySkips :
    ((State.reset.setReg 5 0x0).reg 5).toNat = (0x0 : Nibble).toNat ∧
    ((State.reset.setReg 5 0xF).reg 5).toNat = (0xF : Nibble).toNat ∧
    15 < ((State.reset.setReg 5 0x10).reg 5).toNat := by decide

/-- `KeyWaitScansOrRewinds`: the lowest key, the highest key alone, and no key, with the word fetched. -/
theorem witness_keyWait :
    (State.reset.setKey 0 true).keyDown 0 = true ∧
    ((State.reset.setKey 0xF true).keyDown 0xF = true ∧
      ∀ j, j < (0xF : Nibble) → (State.reset.setKey 0xF true).keyDown j = false) ∧
    ((∀ k, (State.reset.withFetchWord 16 0xF50A).keyDown k = false) ∧
      (State.reset.withFetchWord 16 0xF50A).fault = .none ∧
      decodeWord (State.reset.withFetchWord 16 0xF50A).fetchWord = .ldVxK 5) := by decide

/-- `StackFaultEntryIsPrecise` and `FaultsComeOnlyFromCallAndRet`: a CALL with a full stack and a RET with an
empty one, each a step to a faulted state. -/
theorem witness_stackFaults :
    (let s := (withStack 16).withFetchWord 16 0x2FFF
     s.fault = .none ∧ decodeWord s.fetchWord = .call 0xFFF ∧ s.sp.toNat = 16 ∧
     after (step s) (fun t => decide (t.fault ≠ .none)) = some true) ∧
    (let s := State.reset.withFetchWord 16 0x00EE
     s.fault = .none ∧ decodeWord s.fetchWord = .ret ∧ s.sp.toNat = 0 ∧
     after (step s) (fun t => decide (t.fault ≠ .none)) = some true) := by decide

/-- `FaultIsStickyUntilResetOrLoad`: a faulted state, and a command that is neither Reset nor Load. -/
theorem witness_faultIsSticky :
    overflowed.fault ≠ .none ∧ Command.consumeDirtyFlag ≠ .reset ∧
    ∀ image, Command.consumeDirtyFlag ≠ .load image :=
  ⟨by decide, by decide, fun _ h => Command.noConfusion h⟩

/-- `LoadCopiesImage` and `OversizedLoadLeavesResetState`: the longest image that fits, and one byte more. -/
theorem witness_load :
    (List.replicate 3584 (0xAB : Byte)).length ≤ 3584 ∧
    3583 < (List.replicate 3584 (0xAB : Byte)).length ∧
    (0x200 + 0 ≤ 0xFFF ∧ 0xFFF < 4096) ∧
    3584 < (List.replicate 3585 (0xAB : Byte)).length := by
  simp only [List.length_replicate]; decide

/-- `TickTimersCountsDown`: a timer at zero and one at the top. -/
theorem witness_tickTimers :
    State.reset.dt = 0 ∧ State.reset.st = 0 ∧ ({ State.reset with dt := 0xFF } : State).dt ≠ 0 ∧
    ({ State.reset with st := 1 } : State).st ≠ 0 := by decide

/-- `SetKeyWritesOneKey`: another key. -/
theorem witness_setKey : (0xF : Nibble) ≠ 0x0 := by decide

/-- `DirtyFlagWriters`, `InstructionsWriteOnlyTheirParts` and `InstructionsWriteOnlyTheirRegisters`: an instruction
that is neither CLS nor DRW, its next state, and a register it may not write. -/
theorem witness_frames :
    Instr.addReg 1 2 ≠ .cls ∧ (∀ x y n, Instr.addReg 1 2 ≠ .drw x y n) ∧
    exec (.addReg 1 2) State.reset = .next ((State.reset.setFlag 0).setReg 1 0) ∧
    mayWriteReg (.addReg 1 2) 2 = false ∧ Part.mem ∉ writtenParts (.addReg 1 2) :=
  ⟨by decide, fun _ _ _ h => Instr.noConfusion h, rfl, by decide, by decide⟩

/-- `CanonicalMemoryIsDetermined`: a memory with a font byte overwritten and a byte written at the top. -/
theorem witness_canonicalMemory :
    let m : Memory := [(0x000, 0x00), (0xFFF, 0x12)]
    m.wf ∧ ∀ a, a < 4096 → m.read a = m.read a := ⟨by decide, fun _ _ => rfl⟩

/-- `StepKeepsInvariant`, `StepNeverStops` and `EveryCommandKeepsInvariant`: a state with a full stack and a fault meets the
invariant, and steps. -/
theorem witness_invariant :
    overflowed.Inv ∧ step overflowed = .next overflowed :=
  ⟨⟨by decide, by decide, ⟨rfl, 0x300, by decide⟩⟩, if_neg (by decide)⟩

end Sys2Proof.Tests
end

/-!
The state and its writers (10_state.md): the parts and the registers each instruction writes, the
writers of the dirty flag, and the invariant, which every step keeps.
-/

namespace Sys2Proof.Machine

/-! ### Facts about an outcome's next state -/

/-- The next state of an outcome, where there is one, satisfies `P`. -/
def EveryNext (P : State → Prop) (o : Host.Outcome State Fault Refusal) : Prop :=
  match o with
  | .next t => P t
  | .fault _ | .refused _ => True

theorem everyNext_iff {P : State → Prop} {o : Host.Outcome State Fault Refusal} :
    EveryNext P o ↔ ∀ t, o = .next t → P t := by
  cases o <;> simp [EveryNext]

/-! ### What the shared operations leave -/

section
variable (s : State)

@[simp] theorem State.skipIf_mem (c : Bool) : (s.skipIf c).mem = s.mem := by
  rw [State.skipIf_eq, State.setPc_mem]

@[simp] theorem pressed_mem (b : Byte) : (pressed s b).2.mem = s.mem := by
  unfold pressed
  split <;> rfl

@[simp] theorem loadRegs_mem (n : Nat) : (loadRegs s n).mem = s.mem := by
  obtain ⟨v, hv⟩ := loadRegs_frame s n
  rw [hv]

/-- Everything a key wait can do (45_input_timers.md R203). -/
theorem execLdVxK_cases (x : Reg) :
    (∃ k, firstKey s = some k ∧ execLdVxK x s = .next (s.setReg x (k.setWidth 8))) ∨
    (firstKey s = none ∧ execLdVxK x s = .next (s.setPc (s.pc - 2))) := by
  unfold execLdVxK
  cases firstKey s with
  | some k => exact .inl ⟨k, rfl, rfl⟩
  | none => exact .inr ⟨rfl, rfl⟩

theorem unchangedBut_callTo (target : Word) :
    EveryNext (UnchangedBut [.stack, .sp, .pc, .fault] s) (s.callTo target) := by
  obtain ⟨-, h⟩ | ⟨hsp, h⟩ | ⟨-, h⟩ := s.callTo_cases target <;> rw [h]
  · exact (unchangedBut_raise s _).mono (by decide)
  · exact ((unchangedBut_pushReturn s hsp).mono (by decide)).trans
      ((unchangedBut_setPc _ _).mono (by decide))
  · trivial

theorem unchangedBut_returnFromCall :
    EveryNext (UnchangedBut [.sp, .pc, .fault] s) s.returnFromCall := by
  obtain ⟨-, h⟩ | ⟨-, hsp, h⟩ | ⟨-, h⟩ := s.returnFromCall_cases <;> rw [h]
  · exact (unchangedBut_raise s _).mono (by decide)
  · exact (unchangedBut_popReturn s hsp).mono (by decide)
  · trivial

theorem callTo_mem (target : Word) : EveryNext (fun t => t.mem = s.mem) (s.callTo target) := by
  obtain ⟨-, h⟩ | ⟨_, h⟩ | ⟨-, h⟩ := s.callTo_cases target <;> rw [h]
  exacts [rfl, rfl, trivial]

theorem returnFromCall_mem : EveryNext (fun t => t.mem = s.mem) s.returnFromCall := by
  obtain ⟨-, h⟩ | ⟨-, _, h⟩ | ⟨-, h⟩ := s.returnFromCall_cases <;> rw [h]
  exacts [rfl, rfl, trivial]

theorem execLdVxK_mem (x : Reg) : EveryNext (fun t => t.mem = s.mem) (execLdVxK x s) := by
  obtain ⟨k, -, h⟩ | ⟨-, h⟩ := execLdVxK_cases s x <;> rw [h]
  exacts [rfl, rfl]

theorem unchangedBut_execLdVxK (x : Reg) :
    EveryNext (UnchangedBut [.regs, .pc] s) (execLdVxK x s) := by
  obtain ⟨k, -, h⟩ | ⟨-, h⟩ := execLdVxK_cases s x <;> rw [h]
  · exact (unchangedBut_setReg s _ _).mono (by decide)
  · exact (unchangedBut_setPc s _).mono (by decide)

/-- A key test and the skip on its outcome, whichever way the skip reads it. -/
theorem unchangedBut_pressed_skipIf (b : Byte) (c : Bool) :
    UnchangedBut [.pc, .draws] s ((pressed s b).2.skipIf c) :=
  ((unchangedBut_pressed s b).mono (by decide)).trans
    ((unchangedBut_skipIf _ c).mono (by decide))

/-- A DRW's three writes: VF, the sprite, the dirty flag (44_display.md R182). -/
theorem unchangedBut_execDrw (x y : Reg) (n : Nibble) :
    EveryNext (UnchangedBut [.regs, .fb, .dirty] s) (execDrw x y n s) :=
  (((unchangedBut_setFlag s 0).mono (by decide)).trans
    ((unchangedBut_drawRows _ _ _ _).mono (by decide))).trans
    ((unchangedBut_setDirty _ true).mono (by decide))

end

/-! ### The parts each instruction writes (10_state.md R38) -/

theorem exec_unchangedBut (i : Instr) (s : State) :
    EveryNext (UnchangedBut (writtenParts i) s) (exec i s) := by
  cases i with
  | sys | unrec8XY8 | unrec8XY9 | unrec8XYA | unrec8XYB | unrec8XYC | unrec8XYD | unrec8XYF
  | unrecEXKK | unrecFXKK => exact UnchangedBut.refl [] s
  | cls =>
    exact ((unchangedBut_clearFb s).mono (by decide)).trans
      ((unchangedBut_setDirty _ true).mono (by decide))
  | ret => exact unchangedBut_returnFromCall s
  | call nnn => exact unchangedBut_callTo s _
  | jp | jpV0 => exact unchangedBut_setPc s _
  | seImm | sneImm | seReg | sneReg => exact unchangedBut_skipIf s _
  | skp | sknp => exact unchangedBut_pressed_skipIf s _ _
  | ldImm | addImm | ldReg | orReg | andReg | xorReg | ldVxDt => exact unchangedBut_setReg s _ _
  | addReg | subReg | shrReg | subnReg | shlReg =>
    exact (unchangedBut_setFlag s _).trans (unchangedBut_setReg _ _ _)
  | rnd =>
    exact ((unchangedBut_nextDraw s).mono (by simp [writtenParts])).trans
      ((unchangedBut_setReg _ _ _).mono (by simp [writtenParts]))
  | drw x y n => exact unchangedBut_execDrw s x y n
  | ldVxK x => exact unchangedBut_execLdVxK s x
  | ldI | addIVx | ldFVx => exact unchangedBut_setIndex s _
  | ldDtVx => exact unchangedBut_setDt s _
  | ldStVx => exact unchangedBut_setSt s _
  | ldBVx =>
    exact ((unchangedBut_memWrite s _ _).trans (unchangedBut_memWrite _ _ _)).trans
      (unchangedBut_memWrite _ _ _)
  | ldMemVx => exact unchangedBut_storeRegs s _
  | ldVxMem => exact unchangedBut_loadRegs s _

/-- Settles O49: each instruction's writes are those of the shared operations it runs. -/
theorem instructionsWriteOnlyTheirParts : Obligations.InstructionsWriteOnlyTheirParts := by
  intro i s
  exact everyNext_iff.1 (exec_unchangedBut i s)

/-- A part outside an instruction's column of R38 is as before in its next state. -/
theorem same_of_exec {i : Instr} {s t : State} (h : exec i s = .next t) {p : Part}
    (hp : p ∉ writtenParts i) : p.same s t :=
  instructionsWriteOnlyTheirParts i s t h p hp

/-! ### The registers each instruction writes (10_state.md R22) -/

/-- A flag write and then a result leave the registers that are neither. -/
theorem State.setFlag_setReg_reg_ne (s : State) {x r : Reg} (hx : r ≠ x) (hf : r ≠ regF)
    (flag b : Byte) : ((s.setFlag flag).setReg x b).reg r = s.reg r := by
  rw [State.setReg_reg_ne _ hx, State.setFlag_reg, if_neg hf]

/-- A DRW leaves the registers but VF: the sprite's loops write no other. -/
theorem execDrw_reg_ne (x y : Reg) (n : Nibble) (s : State) {r : Reg} (hf : r ≠ regF) :
    EveryNext (fun t => t.reg r = s.reg r) (execDrw x y n s) := by
  show ((s.setFlag 0).drawRows _ _ _).reg r = s.reg r
  rw [(State.drawRows_only ..).reg r hf, State.setFlag_reg, if_neg hf]

/-- A block load leaves the registers above its last. -/
theorem execLdVxMem_reg_of_lt {x r : Reg} (s : State) (h : x < r) :
    EveryNext (fun t => t.reg r = s.reg r) (execLdVxMem x s) := by
  show (loadRegs s (x.toNat + 1)).reg r = s.reg r
  rw [loadRegs_reg s (by omega), if_neg (by bv_omega)]

theorem exec_reg_of_not_mayWriteReg {i : Instr} {r : Reg} (hr : mayWriteReg i r = false)
    (s : State) : EveryNext (fun t => t.reg r = s.reg r) (exec i s) := by
  cases i with
  | ldImm | addImm | ldReg | orReg | andReg | xorReg | rnd | ldVxDt =>
    exact State.setReg_reg_ne _ (by simpa [mayWriteReg] using hr) _
  | ldVxK x =>
    have hx : r ≠ x := by simpa [mayWriteReg] using hr
    obtain ⟨k, -, h⟩ | ⟨-, h⟩ := execLdVxK_cases s x <;> rw [exec, h]
    · exact State.setReg_reg_ne s hx _
    · exact State.setPc_reg s _ r
  | addReg x | subReg x | shrReg x | subnReg x | shlReg x =>
    obtain ⟨hx, hf⟩ : r ≠ x ∧ r ≠ regF := by simpa [mayWriteReg] using hr
    exact State.setFlag_setReg_reg_ne s hx hf _ _
  | drw x y n => exact execDrw_reg_ne x y n s (by simpa [mayWriteReg] using hr)
  | ldVxMem x => exact execLdVxMem_reg_of_lt s (by simpa [mayWriteReg] using hr)
  | _ => exact everyNext_iff.2 fun t h => same_of_exec (p := .regs) h (by simp [writtenParts]) r

/-- Settles O50: a writer of registers writes those of its row, and the other instructions have no
register among their parts (R38). -/
theorem instructionsWriteOnlyTheirRegisters : Obligations.InstructionsWriteOnlyTheirRegisters := by
  intro i s t r h hr
  exact everyNext_iff.1 (exec_reg_of_not_mayWriteReg hr s) t h

/-! ### The dirty flag (10_state.md R32) -/

theorem dirty_not_mem_writtenParts {i : Instr} (hcls : i ≠ .cls) (hdrw : ∀ x y n, i ≠ .drw x y n) :
    .dirty ∉ writtenParts i := by
  cases i with
  | cls => exact absurd rfl hcls
  | drw x y n => exact absurd rfl (hdrw x y n)
  | _ => simp [writtenParts]

/-- Settles O48: CLS and DRW end in the write of the flag, and no other instruction has it among its
parts (R38). -/
theorem dirtyFlagWriters : Obligations.DirtyFlagWriters := by
  refine ⟨fun s => ⟨_, rfl, rfl⟩, fun x y n s => ⟨_, rfl, rfl⟩, ?_, fun s => ⟨?_, ?_⟩⟩
  · intro i s t hcls hdrw h
    exact same_of_exec (p := .dirty) h (dirty_not_mem_writtenParts hcls hdrw)
  · exact ⟨_, rfl, rfl, unchangedBut_setDirty s false⟩
  · exact ⟨_, rfl, rfl⟩

/-! ### The canonical form of memory -/

/-- An instruction that does not write memory leaves the very list, not only what it reads as. -/
theorem exec_mem_of_not_mem_writtenParts {i : Instr} (hi : .mem ∉ writtenParts i) (s : State) :
    EveryNext (fun t => t.mem = s.mem) (exec i s) := by
  cases i with
  | ldBVx | ldMemVx => exact absurd List.mem_cons_self hi
  | call nnn => exact callTo_mem s _
  | ret => exact returnFromCall_mem s
  | ldVxK x => exact execLdVxK_mem s x
  | seImm | sneImm | seReg | sneReg => exact s.skipIf_mem _
  | skp | sknp => exact (State.skipIf_mem _ _).trans (pressed_mem s _)
  | ldVxMem => exact loadRegs_mem s _
  | drw x y n => exact (State.drawRows_only (s.setFlag 0) _ _ _).mem
  | _ => rfl

/-- Every instruction keeps the canonical form. -/
theorem mem_wf_of_exec {i : Instr} {s t : State} (hm : s.mem.wf) (h : exec i s = .next t) :
    t.mem.wf := by
  cases i with
  | ldBVx =>
    cases h
    exact State.memWrite_wf (State.memWrite_wf (State.memWrite_wf hm _ _) _ _) _ _
  | ldMemVx =>
    cases h
    exact storeRegs_wf hm _
  | _ =>
    have hmem : t.mem = s.mem :=
      everyNext_iff.1 (exec_mem_of_not_mem_writtenParts (by simp [writtenParts]) s) t h
    rwa [hmem]

/-! ### The stack pointer and the fault register -/

/-- Every instruction keeps sp at most 16 (10_state.md R26). -/
theorem sp_le_of_exec {i : Instr} {s t : State} (hs : s.sp.toNat ≤ 16) (h : exec i s = .next t) :
    t.sp.toNat ≤ 16 := by
  cases i with
  | call nnn =>
    obtain ⟨-, hc⟩ | ⟨hsp, hc⟩ | ⟨-, hc⟩ := s.callTo_cases (zextAddr nnn) <;>
      cases hc.symm.trans h
    · exact hs
    · show (s.sp + 1).toNat ≤ 16
      bv_omega
  | ret =>
    obtain ⟨-, hr⟩ | ⟨-, hsp, hr⟩ | ⟨-, hr⟩ := s.returnFromCall_cases <;> cases hr.symm.trans h
    · exact hs
    · exact hsp.le
  | _ =>
    have hsp : t.sp = s.sp := same_of_exec (p := .sp) h (by simp [writtenParts])
    rwa [hsp]

/-- Everything an instruction can do to the fault register: leave it, or raise a stack fault, which is all it
then does (60_exceptions.md R220, R222). -/
theorem exec_fault_cases {i : Instr} {s t : State} (h : exec i s = .next t) :
    t.fault = s.fault ∨
    (∃ nnn, i = .call nnn ∧ s.sp = 16 ∧ t = s.raise .stackOverflow) ∨
    (i = .ret ∧ s.sp = 0 ∧ t = s.raise .stackUnderflow) := by
  cases i with
  | call nnn =>
    obtain ⟨hsp, hc⟩ | ⟨_, hc⟩ | ⟨-, hc⟩ := s.callTo_cases (zextAddr nnn) <;>
      cases hc.symm.trans h
    · exact .inr (.inl ⟨nnn, rfl, hsp, rfl⟩)
    · exact .inl rfl
  | ret =>
    obtain ⟨hsp, hr⟩ | ⟨-, _, hr⟩ | ⟨-, hr⟩ := s.returnFromCall_cases <;> cases hr.symm.trans h
    · exact .inr (.inr ⟨rfl, hsp, rfl⟩)
    · exact .inl rfl
  | _ => exact .inl (same_of_exec (p := .fault) h (by simp [writtenParts]))

/-- A fault raised after the fetch leaves the faulting instruction as the word the next fetch reads. -/
@[simp] theorem State.raise_advancePc_fetchWord (s : State) (code : FaultCode) :
    (s.advancePc.raise code).fetchWord = s.fetchWord := by
  simp [State.fetchWord]

theorem faultPrecise_of_fault_eq_none {s : State} (h : s.fault = .none) : FaultPrecise s := by
  rw [FaultPrecise, h]
  trivial

/-! ### The step and the invariant -/

theorem step_of_fault_eq_none {s : State} (h : s.fault = .none) :
    step s = exec (decodeWord s.fetchWord) s.advancePc := if_pos h

theorem step_of_fault_ne_none {s : State} (h : s.fault ≠ .none) : step s = .next s := if_neg h

/-- The fault a fetched instruction leaves is precise. -/
theorem faultPrecise_of_exec_fetched {s t : State} (hf : s.fault = .none)
    (h : exec (decodeWord s.fetchWord) s.advancePc = .next t) : FaultPrecise t := by
  obtain hsame | ⟨nnn, hcall, hsp, rfl⟩ | ⟨hret, hsp, rfl⟩ := exec_fault_cases h
  · exact faultPrecise_of_fault_eq_none (hsame.trans hf)
  · exact ⟨hsp, nnn, by rw [State.raise_advancePc_fetchWord, hcall]⟩
  · exact ⟨hsp, by rw [State.raise_advancePc_fetchWord, hret]⟩

/-- Settles O52: a faulted block does not move; else each clause is kept by every instruction. -/
theorem stepKeepsInvariant : Obligations.StepKeepsInvariant := by
  intro s t hs h
  by_cases hf : s.fault = .none
  · rw [step_of_fault_eq_none hf] at h
    exact
      { memory := mem_wf_of_exec (s := s.advancePc) hs.memory h
        stack := sp_le_of_exec (s := s.advancePc) hs.stack h
        fault := faultPrecise_of_exec_fetched hf h }
  · rw [step_of_fault_ne_none hf] at h
    cases h
    exact hs

end Sys2Proof.Machine

/-!
The one memory (20_memory.md): the fetch of a word, its byte order and its addresses; the word laid at the pc
or left there by a block store; and the canonical list, which its reads determine.
-/

namespace Sys2Proof.Machine

/-! ### Addresses (20_memory.md R51, R52) -/

theorem busAddress_succ_ne (a : Nat) : busAddress (a + 1) ≠ busAddress a := by
  unfold busAddress Config.memBytes
  omega

theorem busAddress_succ_congr {a b : Nat} (h : busAddress a = busAddress b) :
    busAddress (a + 1) = busAddress (b + 1) :=
  Nat.ModEq.add_right 1 h

theorem State.memRead_congr (s : State) {a b : Nat} (h : busAddress a = busAddress b) :
    s.memRead a = s.memRead b :=
  congrArg s.mem.read h

/-! ### The fetched word (20_memory.md R55) -/

theorem wordOfBytes_toNat (hi lo : Byte) :
    (wordOfBytes hi lo).toNat = 256 * hi.toNat + lo.toNat := by
  have happend : (wordOfBytes hi lo).toNat = hi.toNat <<< 8 ||| lo.toNat := BitVec.toNat_append hi lo
  rw [happend, ← Nat.shiftLeft_add_eq_or_of_lt lo.isLt, Nat.shiftLeft_eq, Nat.mul_comm]

/-- Settles O2: each of the two bytes is read at its address modulo 4096. -/
theorem fetchIsBigEndianAndWraps : Obligations.FetchIsBigEndianAndWraps :=
  fun _ => wordOfBytes_toNat _ _

/-- A fetch reads the pair of bytes that lies at an address the bus takes for the pc. -/
theorem State.fetchWord_eq_of_busAddress (s : State) {a : Nat}
    (h : busAddress s.pc.toNat = busAddress a) :
    s.fetchWord = wordOfBytes (s.memRead a) (s.memRead (a + 1)) := by
  rw [State.fetchWord, s.memRead_congr h, s.memRead_congr (busAddress_succ_congr h)]

/-! ### A word laid at the pc (log 8) -/

theorem State.withFetchWord_word (s : State) (w : Word) :
    s.withFetchWord 16 w.toNat = s.placeWord w := by
  rw [State.withFetchWord, Nat.mod_eq_of_lt w.isLt, BitVec.ofNat_toNat, BitVec.setWidth_eq]

@[simp] theorem State.placeWord_pc (s : State) (w : Word) : (s.placeWord w).pc = s.pc := rfl

@[simp] theorem State.placeWord_fault (s : State) (w : Word) : (s.placeWord w).fault = .none := rfl

theorem State.placeWord_memRead (s : State) (w : Word) (a : Nat) :
    (s.placeWord w).memRead a =
      ((s.memWrite s.pc.toNat (hiByte w)).memWrite (s.pc.toNat + 1) (loByte w)).memRead a := rfl

/-- The two bytes lie at different addresses, so neither store undoes the other. -/
@[simp] theorem State.placeWord_fetchWord (s : State) (w : Word) : (s.placeWord w).fetchWord = w := by
  have hhi : (s.placeWord w).memRead s.pc.toNat = hiByte w := by
    rw [State.placeWord_memRead, State.memWrite_memRead, if_neg (busAddress_succ_ne _).symm,
      State.memWrite_memRead, if_pos rfl]
  have hlo : (s.placeWord w).memRead (s.pc.toNat + 1) = loByte w := by
    rw [State.placeWord_memRead, State.memWrite_memRead, if_pos rfl]
  rw [State.fetchWord, State.placeWord_pc, hhi, hlo, wordOfBytes_bytes]

/-- Settles O3: the laid word is the fetched one, and no fault is left to stop the step. -/
theorem placedWordIsPerformedNext : Obligations.PlacedWordIsPerformedNext := by
  intro s w
  rw [State.withFetchWord_word, step_of_fault_eq_none (State.placeWord_fault s w),
    State.placeWord_fetchWord]
  exact ⟨rfl, rfl⟩

/-! ### Code left by a block store (20_memory.md R63) -/

theorem dataAddress_succ (s : State) (k : Nat) : dataAddress s k + 1 = dataAddress s (k + 1) := rfl

/-- A block store leaves each register of the block at its own address. -/
theorem storeRegs_memRead_reg (s : State) {x r : Reg} (h : r ≤ x) :
    (storeRegs s (x.toNat + 1)).memRead (dataAddress s r.toNat) = s.reg r := by
  have hnumber : regNumber r.toNat = r := ((regNumber_eq_iff r.isLt r).2 rfl).symm
  rw [storeRegs_memRead_same s (Nat.succ_le_of_lt x.isLt) (Nat.lt_succ_of_le h), hnumber]

/-- Settles O31: the fetch reads the addresses of two neighbouring registers of the block. -/
theorem storedCodeIsFetched : Obligations.StoredCodeIsFetched := by
  intro x s
  refine ⟨storeRegs s (x.toNat + 1), rfl, fun u r hr hmem hpc => ?_⟩
  have hnext : (r + 1).toNat = r.toNat + 1 := by bv_omega
  have hhi : u.memRead (dataAddress s r.toNat) = s.reg r := by
    rw [hmem, storeRegs_memRead_reg s (by bv_omega)]
  have hlo : u.memRead (dataAddress s r.toNat + 1) = s.reg (r + 1) := by
    rw [hmem, dataAddress_succ, ← hnext, storeRegs_memRead_reg s (by bv_omega)]
  rw [u.fetchWord_eq_of_busAddress hpc, hhi, hlo]

/-! ### The canonical list (20_memory.md R58, log 4) -/

/-- A byte that is not its reset contents is listed. -/
theorem Memory.mem_of_read_ne {m : Memory} {a : Nat} (h : m.read a ≠ resetByte a) :
    (a, m.read a) ∈ m := by
  induction m with
  | nil => exact absurd (Memory.read_nil a) h
  | cons c m ih =>
    rw [Memory.read_cons] at h ⊢
    split at h
    · rename_i hc
      rw [if_pos hc, hc]
      exact List.mem_cons_self
    · rename_i hc
      rw [if_neg hc]
      exact List.mem_cons_of_mem c (ih h)

/-- With rising addresses, a listed byte is what its address reads as: no earlier cell has that address. -/
theorem Memory.read_of_mem {m : Memory} (hm : m.Pairwise fun c d => c.1 < d.1) {c : Host.Cell}
    (hc : c ∈ m) : m.read c.1 = c.2 := by
  induction m with
  | nil => cases hc
  | cons d m ih =>
    obtain ⟨hd, hrest⟩ := List.pairwise_cons.1 hm
    rw [Memory.read_cons]
    obtain rfl | hc := List.mem_cons.1 hc
    · exact if_pos rfl
    · rw [if_neg (hd c hc).ne', ih hrest hc]

/-- The cells of a canonical list are the bytes in the address space that are not their reset contents. -/
theorem Memory.mem_iff_read {m : Memory} (hm : m.wf) {c : Host.Cell} :
    c ∈ m ↔ c.1 < Config.memBytes ∧ m.read c.1 = c.2 ∧ c.2 ≠ resetByte c.1 := by
  obtain ⟨hrising, hcells⟩ := hm
  constructor
  · intro hc
    obtain ⟨hlt, hne⟩ := hcells c hc
    exact ⟨hlt, Memory.read_of_mem hrising hc, hne⟩
  · rintro ⟨-, hread, hne⟩
    rw [← hread] at hne
    have hc := Memory.mem_of_read_ne hne
    rwa [hread] at hc

/-- Settles O51: the reads determine the cells, and the rising addresses determine their order. -/
theorem canonicalMemoryIsDetermined : Obligations.CanonicalMemoryIsDetermined := by
  intro m m' hm hm' hread
  have hcells : ∀ c, c ∈ m ↔ c ∈ m' := fun c => by
    rw [Memory.mem_iff_read hm, Memory.mem_iff_read hm']
    exact and_congr_right fun hlt => by rw [hread c.1 hlt]
  have hirrefl : Std.Irrefl fun c d : Host.Cell => c.1 < d.1 := ⟨fun c => lt_irrefl c.1⟩
  have hantisymm : Std.Antisymm fun c d : Host.Cell => c.1 < d.1 :=
    ⟨fun _ _ h h' => absurd h' h.not_gt⟩
  exact hm.1.eq_of_mem_iff hm'.1 hcells

end Sys2Proof.Machine

/-!
The encoding (30_encoding.md): the decoder and the encoder undo each other, what a step performs, which words
are no-ops, and which instructions depend on the draws of an Execute.
-/

namespace Sys2Proof

/-! ### A word from the fields its row leaves open -/

section
variable {w : Word} {c : Nibble}

theorem packA_of_class (hc : fieldC w = c) : packA c (fieldNnn w) = w := by
  rw [← hc, packA_fields]

theorem packXK_of_class (hc : fieldC w = c) : packXK c (fieldX w) (fieldKk w) = w := by
  rw [← hc, packXK_fields]

theorem packXYN_of_class (hc : fieldC w = c) :
    packXYN c (fieldX w) (fieldY w) (fieldN w) = w := by
  rw [← hc, packXYN_fields]

theorem packA_of_nnn {nnn : Addr} (hc : fieldC w = c) (hnnn : fieldNnn w = nnn) :
    packA c nnn = w := by
  rw [← hnnn, packA_of_class hc]

theorem packXK_of_sub {kk : Byte} (hc : fieldC w = c) (hkk : fieldKk w = kk) :
    packXK c (fieldX w) kk = w := by
  rw [← hkk, packXK_of_class hc]

theorem packXYN_of_sub {n : Nibble} (hc : fieldC w = c) (hn : fieldN w = n) :
    packXYN c (fieldX w) (fieldY w) n = w := by
  rw [← hn, packXYN_of_class hc]

end

/-! ### Dispatch on the class (30_encoding.md R76) -/

section
variable {w : Word}

theorem decodeWord_class0 (h : fieldC w = 0x0) : decodeWord w = decodeClass0 w := by
  rw [decodeWord, h]; rfl

theorem decodeWord_class8 (h : fieldC w = 0x8) : decodeWord w = decodeClass8 w := by
  rw [decodeWord, h]; rfl

theorem decodeWord_classE (h : fieldC w = 0xE) : decodeWord w = decodeClassE w := by
  rw [decodeWord, h]; rfl

theorem decodeWord_classF (h : fieldC w = 0xF) : decodeWord w = decodeClassF w := by
  rw [decodeWord, h]; rfl

end

/-! ### Words no other row takes (30_encoding.md R77, R79, R80) -/

theorem wellFormed_sys_iff {nnn : Addr} :
    WellFormed (.sys nnn) = true ↔ nnn ≠ 0x0E0 ∧ nnn ≠ 0x0EE := by
  simp [WellFormed, sysExcluded]

theorem wellFormed_unrecEXKK_iff {x : Reg} {kk : Byte} :
    WellFormed (.unrecEXKK x kk) = true ↔ kk ≠ 0x9E#8 ∧ kk ≠ 0xA1#8 := by
  simp [WellFormed, classESubOps]

theorem wellFormed_unrecFXKK_iff {x : Reg} {kk : Byte} :
    WellFormed (.unrecFXKK x kk) = true ↔
      kk ≠ 0x07#8 ∧ kk ≠ 0x0A#8 ∧ kk ≠ 0x15#8 ∧ kk ≠ 0x18#8 ∧ kk ≠ 0x1E#8 ∧ kk ≠ 0x29#8 ∧
      kk ≠ 0x33#8 ∧ kk ≠ 0x55#8 ∧ kk ≠ 0x65#8 := by
  simp [WellFormed, classFSubOps]

/-! ### Decoding an encoded instruction -/

theorem packA_ne_of_ne {c : Nibble} {a b : Addr} (h : a ≠ b) : packA c a ≠ packA c b :=
  fun heq => h (by simpa using congrArg fieldNnn heq)

theorem decodeWord_encode_sys {nnn : Addr} (h : WellFormed (.sys nnn) = true) :
    decodeWord (encode (.sys nnn)) = .sys nnn := by
  obtain ⟨hcls, hret⟩ := wellFormed_sys_iff.1 h
  have hclsWord : packA 0x0 nnn ≠ 0x00E0#16 := packA_ne_of_ne hcls
  have hretWord : packA 0x0 nnn ≠ 0x00EE#16 := packA_ne_of_ne hret
  rw [encode, decodeWord_class0 (fieldC_packA ..), decodeClass0, if_neg hclsWord, if_neg hretWord,
    fieldNnn_packA]

theorem decodeWord_encode_unrecEXKK {x : Reg} {kk : Byte} (h : WellFormed (.unrecEXKK x kk) = true) :
    decodeWord (encode (.unrecEXKK x kk)) = .unrecEXKK x kk := by
  obtain ⟨hskp, hsknp⟩ := wellFormed_unrecEXKK_iff.1 h
  rw [encode, decodeWord_classE (fieldC_packXK ..), decodeClassE, fieldKk_packXK, fieldX_packXK,
    if_neg hskp, if_neg hsknp]

theorem decodeWord_encode_unrecFXKK {x : Reg} {kk : Byte} (h : WellFormed (.unrecFXKK x kk) = true) :
    decodeWord (encode (.unrecFXKK x kk)) = .unrecFXKK x kk := by
  have hkk := wellFormed_unrecFXKK_iff.1 h
  rw [encode, decodeWord_classF (fieldC_packXK ..)]
  simp [decodeClassF, hkk]

theorem decodeWord_encode {i : Instr} (hi : WellFormed i = true) : decodeWord (encode i) = i := by
  cases i with
  | cls | ret => rfl
  | sys nnn => exact decodeWord_encode_sys hi
  | jp | call | ldI | jpV0 | seImm | sneImm | ldImm | addImm | rnd | seReg | sneReg | drw =>
    simp [encode, decodeWord]
  | ldReg | orReg | andReg | xorReg | addReg | subReg | shrReg | subnReg | shlReg
  | unrec8XY8 | unrec8XY9 | unrec8XYA | unrec8XYB | unrec8XYC | unrec8XYD | unrec8XYF =>
    simp [encode, decodeWord_class8, decodeClass8]
  | skp | sknp => simp [encode, decodeWord_classE, decodeClassE]
  | ldVxDt | ldVxK | ldDtVx | ldStVx | addIVx | ldFVx | ldBVx | ldMemVx | ldVxMem =>
    simp [encode, decodeWord_classF, decodeClassF]
  | unrecEXKK x kk => exact decodeWord_encode_unrecEXKK hi
  | unrecFXKK x kk => exact decodeWord_encode_unrecFXKK hi

theorem decode_encodeBytes_append (i : Instr) (rest : List Byte) :
    decode (encodeBytes i ++ rest) = .ok (decodeWord (encode i), rest) := by
  simp [encodeBytes, decode]

/-- Settles O5: the dispatch reads the class and the sub-operation that the format laid down. -/
theorem decodeInvertsEncode : Obligations.DecodeInvertsEncode := fun i hi =>
  ⟨decodeWord_encode hi, fun rest => by rw [decode_encodeBytes_append, decodeWord_encode hi]⟩

/-! ### Encoding a decoded word -/

theorem eq_last_nibble {c : Nibble} (h : 15 ≤ c.toNat) : c = 0xF :=
  BitVec.eq_of_toNat_eq (Nat.le_antisymm (Nat.le_of_lt_succ c.isLt) h)

/-- The instruction is well formed and its word is `w`. -/
def Encodes (w : Word) (i : Instr) : Prop := WellFormed i = true ∧ encode i = w

theorem decodeWord_of_encodes {w : Word} {i : Instr} (h : Encodes w i) : decodeWord w = i := by
  obtain ⟨hi, rfl⟩ := h
  exact decodeWord_encode hi

section
variable {w : Word}

theorem encodes_decodeClass0 (hc : fieldC w = 0x0) : Encodes w (decodeClass0 w) := by
  unfold decodeClass0
  split_ifs with hcls hret
  · exact ⟨rfl, hcls.symm⟩
  · exact ⟨rfl, hret.symm⟩
  · have hwf : WellFormed (.sys (fieldNnn w)) = true := wellFormed_sys_iff.2
      ⟨fun h => hcls (packA_of_nnn hc h).symm, fun h => hret (packA_of_nnn hc h).symm⟩
    exact ⟨hwf, packA_of_class hc⟩

theorem encodes_decodeClass8 (hc : fieldC w = 0x8) : Encodes w (decodeClass8 w) := by
  unfold decodeClass8
  split
  case h_16 =>
    exact ⟨rfl, packXYN_of_sub hc (eq_last_nibble (by simp only [imp_false] at *; omega))⟩
  all_goals exact ⟨rfl, packXYN_of_sub hc (BitVec.eq_of_toNat_eq ‹_›)⟩

theorem encodes_decodeClassE (hc : fieldC w = 0xE) : Encodes w (decodeClassE w) := by
  unfold decodeClassE
  split_ifs with hskp hsknp
  · exact ⟨rfl, packXK_of_sub hc hskp⟩
  · exact ⟨rfl, packXK_of_sub hc hsknp⟩
  · exact ⟨wellFormed_unrecEXKK_iff.2 ⟨hskp, hsknp⟩, packXK_of_class hc⟩

theorem encodes_decodeClassF (hc : fieldC w = 0xF) : Encodes w (decodeClassF w) := by
  unfold decodeClassF
  split_ifs
  case neg => exact ⟨by simp [wellFormed_unrecFXKK_iff, *], packXK_of_class hc⟩
  all_goals exact ⟨rfl, packXK_of_sub hc ‹_›⟩

theorem encodes_decodeWord (w : Word) : Encodes w (decodeWord w) := by
  unfold decodeWord
  split
  -- classes 0, 8, E and F have rows of their own
  case h_1 hc => exact encodes_decodeClass0 (BitVec.eq_of_toNat_eq hc)
  case h_9 hc => exact encodes_decodeClass8 (BitVec.eq_of_toNat_eq hc)
  case h_15 hc => exact encodes_decodeClassE (BitVec.eq_of_toNat_eq hc)
  case h_16 => exact encodes_decodeClassF (eq_last_nibble (by simp only [imp_false] at *; omega))
  -- format A: JP, CALL, LD I, JP V0
  case h_2 hc | h_3 hc | h_11 hc | h_12 hc =>
    exact ⟨rfl, packA_of_class (BitVec.eq_of_toNat_eq hc)⟩
  -- format XK: SE, SNE, LD and ADD with an immediate, RND
  case h_4 hc | h_5 hc | h_7 hc | h_8 hc | h_13 hc =>
    exact ⟨rfl, packXK_of_class (BitVec.eq_of_toNat_eq hc)⟩
  -- format XYN: SE and SNE of two registers, DRW
  case h_6 hc | h_10 hc | h_14 hc =>
    exact ⟨rfl, packXYN_of_class (BitVec.eq_of_toNat_eq hc)⟩

end

/-- Settles O6: each class keeps every bit of the word, and gives the words of its other rows away. -/
theorem encodeInvertsDecode : Obligations.EncodeInvertsDecode := encodes_decodeWord

end Sys2Proof

namespace Sys2Proof.Machine

/-! ### The decoded instruction is performed (30_encoding.md R74) -/

/-- Settles O1: the two bytes are the fetched word, and every word decodes to a well-formed instruction. -/
theorem stepRunsDecodedInstruction : Obligations.StepRunsDecodedInstruction := by
  intro s i hf hd
  obtain rfl : decodeWord s.fetchWord = i := by simpa [decode, State.fetchWord] using hd
  exact ⟨(encodes_decodeWord _).1, step_of_fault_eq_none hf⟩

/-! ### Unrecognized words (30_encoding.md R83) -/

/-- A row of class 8: its class and its low nibble are fixed. -/
theorem packXYN_of_mask {w pattern : Word} {c n : Nibble} (h : w &&& 0xF00F = pattern)
    (hc : fieldC pattern = c) (hn : fieldN pattern = n) :
    packXYN c (fieldX w) (fieldY w) n = w :=
  packXYN_of_sub ((fieldC_of_mask h rfl).trans hc) ((fieldN_of_mask h rfl).trans hn)

/-- Settles O9: the words of each row are those its instruction encodes to. -/
theorem unrecognizedWordsAreNoOps : Obligations.UnrecognizedWordsAreNoOps := by
  refine ⟨?_, ?_, ?_, ?_, ?_, ?_, ?_, ?classE, ?classF, ?noOps⟩
  case classE =>
    intro w h hskp hsknp
    exact decodeWord_of_encodes
      ⟨wellFormed_unrecEXKK_iff.2 ⟨hskp, hsknp⟩, packXK_of_class (fieldC_of_mask h rfl)⟩
  case classF =>
    intro w h h07 h0A h15 h18 h1E h29 h33 h55 h65
    exact decodeWord_of_encodes
      ⟨wellFormed_unrecFXKK_iff.2 ⟨h07, h0A, h15, h18, h1E, h29, h33, h55, h65⟩,
        packXK_of_class (fieldC_of_mask h rfl)⟩
  case noOps => exact fun _ _ _ _ => ⟨rfl, rfl, rfl, rfl, rfl, rfl, rfl, rfl, rfl⟩
  all_goals exact fun w h => decodeWord_of_encodes ⟨rfl, packXYN_of_mask h rfl rfl⟩

/-! ### The call stack by the value of sp (41_control_flow.md R103, R105) -/

section
variable (s : State)

theorem State.callTo_of_full (h : s.sp = 16) (target : Word) :
    s.callTo target = .next (s.raise .stackOverflow) := if_pos h

theorem State.callTo_of_lt (h : s.sp.toNat < 16) (target : Word) :
    s.callTo target = .next ((s.pushReturn h).setPc target) := by
  have hne : s.sp ≠ 16 := by bv_omega
  rw [State.callTo, if_neg hne, dif_pos h]

theorem State.callTo_of_gt (h : 16 < s.sp.toNat) (target : Word) :
    s.callTo target = .fault .stackIndexOutOfRange := by
  have hne : s.sp ≠ 16 := by bv_omega
  rw [State.callTo, if_neg hne, dif_neg (by omega)]

theorem State.returnFromCall_of_empty (h : s.sp = 0) :
    s.returnFromCall = .next (s.raise .stackUnderflow) := if_pos h

theorem State.returnFromCall_of_lt (hne : s.sp ≠ 0) (h : (s.sp - 1).toNat < 16) :
    s.returnFromCall = .next (s.popReturn h) := by
  rw [State.returnFromCall, if_neg hne, dif_pos h]

theorem State.returnFromCall_of_gt (h : 16 < s.sp.toNat) :
    s.returnFromCall = .fault .stackIndexOutOfRange := by
  have hne : s.sp ≠ 0 := by bv_omega
  have hout : ¬ (s.sp - 1).toNat < 16 := by bv_omega
  rw [State.returnFromCall, if_neg hne, dif_neg hout]

end

/-! ### The count of draws (30_encoding.md R74, log 1) -/

/-- The state with the count of draws `n`. -/
def State.withDraws (s : State) (n : Nat) : State := { s with draws := n }

/-- The outcome with the count of draws `n` in its next state, where there is one. -/
def outcomeWithDraws (o : Host.Outcome State Fault Refusal) (n : Nat) :
    Host.Outcome State Fault Refusal :=
  match o with
  | .next t => .next (t.withDraws n)
  | .fault f => .fault f
  | .refused r => .refused r

section
variable (s : State) (n : Nat)

@[simp] theorem State.withDraws_draws : (s.withDraws n).draws = n := rfl
@[simp] theorem State.withDraws_pixel (cx : Fin 64) (cy : Fin 32) :
    (s.withDraws n).pixel cx cy = s.pixel cx cy := rfl

/-! Each shared operation commutes with the choice of the count. -/

theorem State.skipIf_withDraws (c : Bool) :
    (s.withDraws n).skipIf c = (s.skipIf c).withDraws n := by
  rw [State.skipIf_eq, State.skipIf_eq]; rfl

theorem callTo_withDraws (target : Word) :
    (s.withDraws n).callTo target = outcomeWithDraws (s.callTo target) n := by
  obtain ⟨hsp, h⟩ | ⟨hsp, h⟩ | ⟨hsp, h⟩ := s.callTo_cases target <;> rw [h]
  · exact State.callTo_of_full (s.withDraws n) hsp target
  · exact State.callTo_of_lt (s.withDraws n) hsp target
  · exact State.callTo_of_gt (s.withDraws n) hsp target

theorem returnFromCall_withDraws :
    (s.withDraws n).returnFromCall = outcomeWithDraws s.returnFromCall n := by
  obtain ⟨hsp, h⟩ | ⟨hne, hsp, h⟩ | ⟨hsp, h⟩ := s.returnFromCall_cases <;> rw [h]
  · exact State.returnFromCall_of_empty (s.withDraws n) hsp
  · exact State.returnFromCall_of_lt (s.withDraws n) hne hsp
  · exact State.returnFromCall_of_gt (s.withDraws n) hsp

theorem execLdVxK_withDraws (x : Reg) :
    execLdVxK x (s.withDraws n) = outcomeWithDraws (execLdVxK x s) n := by
  have hkey : firstKey (s.withDraws n) = firstKey s := rfl
  unfold execLdVxK
  rw [hkey]
  cases firstKey s <;> rfl

theorem storeRegs_withDraws (count : Nat) :
    storeRegs (s.withDraws n) count = (storeRegs s count).withDraws n := by
  induction count with
  | zero => rfl
  | succ k ih => rw [storeRegs, storeRegs, ih]; rfl

theorem loadRegs_withDraws (count : Nat) :
    loadRegs (s.withDraws n) count = (loadRegs s count).withDraws n := by
  induction count with
  | zero => rfl
  | succ k ih => rw [loadRegs, loadRegs, ih]; rfl

theorem State.xorPixel_withDraws (tx : Fin 64) (ty : Fin 32) :
    (s.withDraws n).xorPixel tx ty = (s.xorPixel tx ty).withDraws n := by
  unfold State.xorPixel
  rw [State.withDraws_pixel]
  split <;> rfl

theorem State.drawColumn_withDraws (ox : Nat) (ty : Fin 32) (b : Byte) (c : Nat) :
    (s.withDraws n).drawColumn ox ty b c = (s.drawColumn ox ty b c).withDraws n := by
  unfold State.drawColumn
  split_ifs
  · exact s.xorPixel_withDraws n _ _
  · rfl
  · rfl

theorem State.drawColumns_withDraws (ox : Nat) (ty : Fin 32) (b : Byte) (count : Nat) :
    (s.withDraws n).drawColumns ox ty b count = (s.drawColumns ox ty b count).withDraws n := by
  induction count with
  | zero => rfl
  | succ c ih => rw [State.drawColumns, ih, State.drawColumn_withDraws]; rfl

theorem State.drawRow_withDraws (ox oy r : Nat) :
    (s.withDraws n).drawRow ox oy r = (s.drawRow ox oy r).withDraws n := by
  unfold State.drawRow
  split_ifs
  · exact s.drawColumns_withDraws n _ _ _ _
  · rfl

theorem State.drawRows_withDraws (ox oy count : Nat) :
    (s.withDraws n).drawRows ox oy count = (s.drawRows ox oy count).withDraws n := by
  induction count with
  | zero => rfl
  | succ r ih => rw [State.drawRows, ih, State.drawRow_withDraws]; rfl

theorem execDrw_withDraws (x y : Reg) (k : Nibble) :
    execDrw x y k (s.withDraws n) = outcomeWithDraws (execDrw x y k s) n :=
  congrArg (fun t : State => Host.Outcome.next (t.setDirty true))
    (State.drawRows_withDraws (s.setFlag 0) n _ _ _)

end

/-- A key test of an index in the latch takes no draw, whichever way the skip reads it. -/
theorem pressed_skipIf_withDraws (s : State) (n : Nat) {b : Byte} (hb : b ≤ 0xF) (f : Bool → Bool) :
    (pressed (s.withDraws n) b).2.skipIf (f (pressed (s.withDraws n) b).1) =
      ((pressed s b).2.skipIf (f (pressed s b).1)).withDraws n := by
  rw [pressed_of_le s hb, pressed_of_le (s.withDraws n) hb]
  exact s.skipIf_withDraws n _

/-- An instruction that reads no draw has the same outcome under every count of draws, but for the count. -/
theorem exec_withDraws {i : Instr} {s : State} (hi : readsDraw i s = false) (n : Nat) :
    exec i (s.withDraws n) = outcomeWithDraws (exec i s) n := by
  cases i with
  | rnd => cases hi
  | skp x =>
    have hkey : s.reg x ≤ 0xF := by simpa [readsDraw] using hi
    exact congrArg _ (pressed_skipIf_withDraws s n hkey id)
  | sknp x =>
    have hkey : s.reg x ≤ 0xF := by simpa [readsDraw] using hi
    exact congrArg _ (pressed_skipIf_withDraws s n hkey not)
  | call nnn => exact callTo_withDraws s n _
  | ret => exact returnFromCall_withDraws s n
  | seImm | sneImm | seReg | sneReg => exact congrArg _ (s.skipIf_withDraws n _)
  | ldVxK x => exact execLdVxK_withDraws s n x
  | drw x y k => exact execDrw_withDraws s n x y k
  | ldMemVx x => exact congrArg _ (storeRegs_withDraws s n _)
  | ldVxMem x => exact congrArg _ (loadRegs_withDraws s n _)
  | _ => rfl

/-- Settles O7: the outcome follows the count; under the count it started with, the instruction ends with that
count. -/
theorem drawsAreIgnoredByOtherInstructions : Obligations.DrawsAreIgnoredByOtherInstructions := by
  intro i s t n hi h
  have hcount : ∀ m, exec i (s.withDraws m) = .next (t.withDraws m) := fun m => by
    rw [exec_withDraws hi, h]; rfl
  have hown : t.withDraws s.draws = t := by
    have := (hcount s.draws).symm.trans h
    injection this
  exact ⟨by rw [← hown, State.withDraws_draws], hcount n⟩

end Sys2Proof.Machine

/-!
Control flow (41_control_flow.md): the call and the return, the jumps, the skips, and the no-op SYS.
-/

namespace Sys2Proof.Machine

/-! ### Rows of the opcode table by format (30_encoding.md R73, R85) -/

section
variable {pattern : Word}

/-- A row of format A that takes its whole class. -/
theorem decodesAs_formatA {f : Addr → Instr} (h : ∀ nnn, Encodes (packA (fieldC pattern) nnn) (f nnn)) :
    DecodesAs pattern 0xF000 fun w => f (fieldNnn w) := fun w hw =>
  have ⟨hwf, henc⟩ := h (fieldNnn w)
  decodeWord_of_encodes ⟨hwf, henc.trans (packA_of_class (fieldC_of_mask hw rfl))⟩

/-- A row of format XK that takes its whole class. -/
theorem decodesAs_formatXK {f : Reg → Byte → Instr}
    (h : ∀ x kk, Encodes (packXK (fieldC pattern) x kk) (f x kk)) :
    DecodesAs pattern 0xF000 fun w => f (fieldX w) (fieldKk w) := fun w hw =>
  have ⟨hwf, henc⟩ := h (fieldX w) (fieldKk w)
  decodeWord_of_encodes ⟨hwf, henc.trans (packXK_of_class (fieldC_of_mask hw rfl))⟩

/-- A row of format XYN that takes its whole class. -/
theorem decodesAs_formatXYN {f : Reg → Reg → Nibble → Instr}
    (h : ∀ x y n, Encodes (packXYN (fieldC pattern) x y n) (f x y n)) :
    DecodesAs pattern 0xF000 fun w => f (fieldX w) (fieldY w) (fieldN w) := fun w hw =>
  have ⟨hwf, henc⟩ := h (fieldX w) (fieldY w) (fieldN w)
  decodeWord_of_encodes ⟨hwf, henc.trans (packXYN_of_class (fieldC_of_mask hw rfl))⟩

/-- A row of one word. -/
theorem decodesAs_encode {i : Instr} (hi : WellFormed i = true) :
    DecodesAs (encode i) 0xFFFF fun _ => i := fun _ hw =>
  decodeWord_of_encodes ⟨hi, hw.symm.trans BitVec.and_allOnes⟩

end

/-! ### Operands as 16-bit words (30_encoding.md R72) -/

@[simp] theorem zextAddr_toNat (nnn : Addr) : (zextAddr nnn).toNat = nnn.toNat :=
  BitVec.toNat_setWidth_of_le (by decide)

@[simp] theorem zextByte_toNat (b : Byte) : (zextByte b).toNat = b.toNat :=
  BitVec.toNat_setWidth_of_le (by decide)

/-- The sum of an address and a byte, at most 0x10FE, fits a word. -/
theorem zextAddr_add_zextByte_toNat (nnn : Addr) (b : Byte) :
    (zextAddr nnn + zextByte b).toNat = nnn.toNat + b.toNat := by
  have haddr := nnn.isLt
  have hbyte := b.isLt
  rw [BitVec.toNat_add, zextAddr_toNat, zextByte_toNat, Nat.mod_eq_of_lt (by omega)]

section
variable (s : State)

/-! ### The pc after a skip (41_control_flow.md R101) -/

@[simp] theorem State.skipIf_beq_pc (a b : Byte) :
    (s.skipIf (a == b)).pc = if a = b then s.pc + 2 else s.pc := by
  simp [State.skipIf_eq]

@[simp] theorem State.skipIf_bne_pc (a b : Byte) :
    (s.skipIf (a != b)).pc = if a = b then s.pc else s.pc + 2 := by
  simp [State.skipIf_eq]

/-! ### What the call stack holds after a push, and gives to a pop (10_state.md R26, R27) -/

theorem State.pushReturn_sp_toNat (h : s.sp.toNat < 16) :
    (s.pushReturn h).sp.toNat = s.sp.toNat + 1 := by
  rw [State.pushReturn_sp]
  bv_omega

theorem State.pushReturn_stack_same (h : s.sp.toNat < 16) :
    (s.pushReturn h).stack[s.sp.toNat] = s.pc :=
  Vector.getElem_set_self h

theorem State.pushReturn_stack_ne (h : s.sp.toNat < 16) {j : Fin 16} (hj : j.val ≠ s.sp.toNat) :
    (s.pushReturn h).stack[j] = s.stack[j] :=
  Vector.getElem_set_ne h j.isLt hj.symm

theorem State.sp_sub_one_toNat (h : 0 < s.sp.toNat) : (s.sp - 1).toNat = s.sp.toNat - 1 := by
  bv_omega

theorem unchangedBut_pushReturn_setPc (h : s.sp.toNat < 16) (target : Word) :
    UnchangedBut [.pc, .sp, .stack] s ((s.pushReturn h).setPc target) :=
  ((unchangedBut_pushReturn s h).mono (by decide)).trans
    ((unchangedBut_setPc _ target).mono (by decide))

end

/-! ### CALL and RET (41_control_flow.md R103, R105) -/

/-- Settles O12: a clause for each of the call's outcomes by sp: push and jump, fault, stop. -/
theorem callPushesReturnAddress : Obligations.CallPushesReturnAddress := by
  refine ⟨decodesAs_formatA fun _ => ⟨rfl, rfl⟩, fun nnn s => ⟨?push, ?overflow, ?stop⟩⟩
  case push =>
    intro hlt
    exact ⟨_, s.callTo_of_lt hlt _, s.pushReturn_stack_same hlt, s.pushReturn_sp_toNat hlt,
      zextAddr_toNat nnn, fun _ => s.pushReturn_stack_ne hlt, unchangedBut_pushReturn_setPc s hlt _⟩
  case overflow =>
    intro hfull
    have hsp : s.sp = 16 := BitVec.eq_of_toNat_eq hfull
    exact ⟨_, s.callTo_of_full hsp _, rfl, rfl, unchangedBut_raise s _⟩
  case stop => exact fun hgt => s.callTo_of_gt hgt _

/-- Settles O13: a clause for each of the return's outcomes by sp: pop, fault, stop. -/
theorem retPopsReturnAddress : Obligations.RetPopsReturnAddress := by
  refine ⟨decodesAs_encode (i := .ret) rfl, fun s => ⟨?pop, ?underflow, ?stop⟩⟩
  case pop =>
    rintro ⟨hpos, hle⟩
    have hsp := s.sp_sub_one_toNat hpos
    have hne : s.sp ≠ 0 := fun h => by simp [h] at hpos
    have hlt : (s.sp - 1).toNat < 16 := by omega
    exact ⟨_, s.returnFromCall_of_lt hne hlt, getElem_congr_idx hsp, hsp,
      (unchangedBut_popReturn s hlt).mono (by decide)⟩
  case underflow =>
    intro hempty
    have hsp : s.sp = 0 := BitVec.eq_of_toNat_eq hempty
    exact ⟨_, s.returnFromCall_of_empty hsp, rfl, rfl, unchangedBut_raise s _⟩
  case stop => exact s.returnFromCall_of_gt

/-! ### SYS and the jumps (41_control_flow.md R102, R104, R110) -/

/-- Settles O8: class 0 gives away only the two words named. -/
theorem sysIsNoOp : Obligations.SysIsNoOp := by
  refine ⟨fun w hclass hcls hret => ?_, fun _ _ => rfl⟩
  rw [decodeWord_class0 (fieldC_of_mask hclass rfl)]
  exact (if_neg hcls).trans (if_neg hret)

/-- Settles O10: the zero-extended address is the address. -/
theorem jpSetsPc : Obligations.JpSetsPc :=
  ⟨decodesAs_formatA fun _ => ⟨rfl, rfl⟩,
    fun nnn s => ⟨_, rfl, zextAddr_toNat nnn, unchangedBut_setPc s _⟩⟩

/-- Settles O11: the 16-bit sum does not wrap. -/
theorem jpV0AddsV0 : Obligations.JpV0AddsV0 :=
  ⟨decodesAs_formatA fun _ => ⟨rfl, rfl⟩,
    fun nnn s => ⟨_, rfl, zextAddr_add_zextByte_toNat nnn _, unchangedBut_setPc s _⟩⟩

/-! ### The skips (41_control_flow.md R106 to R109) -/

/-- Settles O14: each is a skip on the comparison of a register with the immediate. -/
theorem immediateSkipsTestRegister : Obligations.ImmediateSkipsTestRegister :=
  ⟨decodesAs_formatXK fun _ _ => ⟨rfl, rfl⟩, decodesAs_formatXK fun _ _ => ⟨rfl, rfl⟩, fun _ _ s =>
    ⟨⟨_, rfl, s.skipIf_beq_pc _ _, unchangedBut_skipIf s _⟩,
      ⟨_, rfl, s.skipIf_bne_pc _ _, unchangedBut_skipIf s _⟩⟩⟩

/-- Settles O15: each is a skip on the comparison of two registers, and `n` is in neither meaning. -/
theorem registerSkipsCompareRegisters : Obligations.RegisterSkipsCompareRegisters :=
  ⟨decodesAs_formatXYN fun _ _ _ => ⟨rfl, rfl⟩, decodesAs_formatXYN fun _ _ _ => ⟨rfl, rfl⟩,
    fun _ _ _ s => ⟨⟨_, rfl, s.skipIf_beq_pc _ _, unchangedBut_skipIf s _⟩,
      ⟨_, rfl, s.skipIf_bne_pc _ _, unchangedBut_skipIf s _⟩⟩⟩

end Sys2Proof.Machine

/-!
Arithmetic and logic (42_arithmetic.md): the loads, the additions, the subtractions, the shifts, the logic
operations and RND.
-/

namespace Sys2Proof.Machine

/-- A row of class 8 takes the words of its sub-operation (30_encoding.md R78). -/
theorem decodesAs_formatXY {pattern : Word} {f : Reg → Reg → Instr}
    (h : ∀ x y, Encodes (packXYN (fieldC pattern) x y (fieldN pattern)) (f x y)) :
    DecodesAs pattern 0xF00F fun w => f (fieldX w) (fieldY w) := fun w hw =>
  have ⟨hwf, henc⟩ := h (fieldX w) (fieldY w)
  decodeWord_of_encodes ⟨hwf, henc.trans (packXYN_of_mask hw rfl rfl)⟩

/-! ### The flags and the results as numbers (42_arithmetic.md R138 to R142) -/

theorem carryFlag_eq (sum : Nat) : carryFlag sum = if sum > 255 then 1 else 0 := by
  simp [carryFlag, flagByte]

theorem greaterFlag_eq (a b : Byte) : greaterFlag a b = if a.toNat > b.toNat then 1 else 0 := by
  simp [greaterFlag, flagByte, BitVec.lt_def]

theorem lowBitFlag_toNat (b : Byte) : (lowBitFlag b).toNat = b.toNat % 2 := by
  rw [lowBitFlag, BitVec.toNat_and]
  exact Nat.and_one_is_mod _

/-- The quotient of a byte by 128 is one bit, so the mask keeps it. -/
theorem highBitFlag_toNat (b : Byte) : (highBitFlag b).toNat = b.toNat / 128 := by
  have hbit : b.toNat / 128 < 2 := by omega
  calc (highBitFlag b).toNat
      = b.toNat / 128 % 2 := by
        rw [highBitFlag, BitVec.toNat_and, BitVec.toNat_ushiftRight, Nat.shiftRight_eq_div_pow]
        exact Nat.and_one_is_mod _
    _ = b.toNat / 128 := Nat.mod_eq_of_lt hbit

theorem byte_sub_toNat (a b : Byte) : (a - b).toNat = (256 + a.toNat - b.toNat) % 256 := by
  rw [BitVec.toNat_sub]
  omega

theorem byte_shiftRight_one_toNat (b : Byte) : (b >>> 1).toNat = b.toNat / 2 := by
  rw [BitVec.toNat_ushiftRight, Nat.shiftRight_eq_div_pow, pow_one]

theorem byte_shiftLeft_one_toNat (b : Byte) : (b <<< 1).toNat = 2 * b.toNat % 256 := by
  rw [BitVec.toNat_shiftLeft, Nat.shiftLeft_eq, pow_one, Nat.mul_comm]

/-! ### What the two shapes of a register write leave -/

section
variable (s : State) (x : Reg)

theorem State.setReg_frame (b : Byte) :
    (∀ r, r ≠ x → (s.setReg x b).reg r = s.reg r) ∧ UnchangedBut [.regs] s (s.setReg x b) :=
  ⟨fun _ hr => s.setReg_reg_ne hr b, unchangedBut_setReg s x b⟩

/-- A flag and then a result, which overwrites the flag where x is VF (42_arithmetic.md R131, decision D6). -/
theorem State.setFlag_setReg_frame (flag b : Byte) :
    (x ≠ regF → ((s.setFlag flag).setReg x b).reg regF = flag) ∧
    (∀ r, r ≠ x → r ≠ regF → ((s.setFlag flag).setReg x b).reg r = s.reg r) ∧
    UnchangedBut [.regs] s ((s.setFlag flag).setReg x b) := by
  refine ⟨fun hx => ?_, fun r hr hf => s.setFlag_setReg_reg_ne hr hf flag b,
    (unchangedBut_setFlag s flag).trans (unchangedBut_setReg _ x b)⟩
  rw [State.setReg_reg_ne _ hx.symm, State.setFlag_reg, if_pos rfl]

end

/-! ### Carry and borrow (42_arithmetic.md R138, R139, R141) -/

/-- Settles O20: the sum is taken before either write, and the result is written last. -/
theorem addRegisterSetsCarry : Obligations.AddRegisterSetsCarry := by
  refine ⟨decodesAs_formatXY fun _ _ => ⟨rfl, rfl⟩, fun x y s => ?_⟩
  rw [← carryFlag_eq]
  exact ⟨_, rfl, by rw [State.setReg_reg_same, BitVec.toNat_ofNat], s.setFlag_setReg_frame x _ _⟩

/-- SUB and SUBN: the strict comparison of two registers as the flag, then their difference as the flag's write left
them. -/
theorem difference_after_greaterFlag {s : State} {x p q : Reg} {flag a b : Byte}
    {o : Host.Outcome State Fault Refusal}
    (hflag : flag = if (s.reg p).toNat > (s.reg q).toNat then 1 else 0)
    (ha : a = if p = regF then flag else s.reg p) (hb : b = if q = regF then flag else s.reg q)
    (ho : let u := s.setFlag (greaterFlag (s.reg p) (s.reg q))
      o = .next (u.setReg x (u.reg p - u.reg q))) :
    ∃ t, o = .next t ∧ (t.reg x).toNat = (256 + a.toNat - b.toNat) % 256 ∧
      (x ≠ regF → t.reg regF = flag) ∧ (∀ r, r ≠ x → r ≠ regF → t.reg r = s.reg r) ∧
      UnchangedBut [.regs] s t := by
  rw [← greaterFlag_eq] at hflag
  rw [← State.setFlag_reg] at ha hb
  subst hflag ha hb
  exact ⟨_, ho, by rw [State.setReg_reg_same, byte_sub_toNat], s.setFlag_setReg_frame x _ _⟩

/-- Settles O21: the difference is Vx - Vy. -/
theorem subSetsStrictGreaterFlag : Obligations.SubSetsStrictGreaterFlag :=
  ⟨decodesAs_formatXY fun _ _ => ⟨rfl, rfl⟩, fun _ _ _ _ _ _ hflag ha hb =>
    difference_after_greaterFlag hflag ha hb rfl⟩

/-- Settles O22: the difference is Vy - Vx. -/
theorem subnSetsStrictGreaterFlag : Obligations.SubnSetsStrictGreaterFlag :=
  ⟨decodesAs_formatXY fun _ _ => ⟨rfl, rfl⟩, fun _ _ _ _ _ _ hflag ha hb =>
    difference_after_greaterFlag hflag hb ha rfl⟩

/-! ### Shifts (42_arithmetic.md R140, R142) -/

/-- Settles O23: each flag is the bit its number names, and the operand is Vy after the flag's write. -/
theorem shiftsMoveVyAndSetFlag : Obligations.ShiftsMoveVyAndSetFlag := by
  refine ⟨decodesAs_formatXY fun _ _ => ⟨rfl, rfl⟩, decodesAs_formatXY fun _ _ => ⟨rfl, rfl⟩,
    fun x y s low high b c hlow hhigh hb hc => ?_⟩
  obtain rfl : low = lowBitFlag (s.reg y) :=
    BitVec.eq_of_toNat_eq (hlow.trans (lowBitFlag_toNat _).symm)
  obtain rfl : high = highBitFlag (s.reg y) :=
    BitVec.eq_of_toNat_eq (hhigh.trans (highBitFlag_toNat _).symm)
  rw [← State.setFlag_reg] at hb hc
  subst hb hc
  exact ⟨⟨_, rfl, by rw [State.setReg_reg_same, byte_shiftRight_one_toNat],
      s.setFlag_setReg_frame x _ _⟩,
    ⟨_, rfl, by rw [State.setReg_reg_same, byte_shiftLeft_one_toNat],
      s.setFlag_setReg_frame x _ _⟩⟩

/-! ### One register and no flag (42_arithmetic.md R132 to R137) -/

/-- Settles O16: a write of one register, of the immediate. -/
theorem ldImmediateWritesRegister : Obligations.LdImmediateWritesRegister :=
  ⟨decodesAs_formatXK fun _ _ => ⟨rfl, rfl⟩, fun x kk s =>
    ⟨_, rfl, s.setReg_reg_same x kk, s.setReg_frame x kk⟩⟩

/-- Settles O17: a write of one register, of the 8-bit sum. -/
theorem addImmediateWrapsWithoutFlag : Obligations.AddImmediateWrapsWithoutFlag :=
  ⟨decodesAs_formatXK fun _ _ => ⟨rfl, rfl⟩, fun x kk s =>
    ⟨_, rfl, by rw [State.setReg_reg_same, BitVec.toNat_add], s.setReg_frame x _⟩⟩

/-- Settles O18: a write of one register, of another's value. -/
theorem ldRegisterCopies : Obligations.LdRegisterCopies :=
  ⟨decodesAs_formatXY fun _ _ => ⟨rfl, rfl⟩, fun x _ s =>
    ⟨_, rfl, s.setReg_reg_same x _, s.setReg_frame x _⟩⟩

/-- Settles O19: a write of one register, of a word made bit by bit. -/
theorem logicActsBitwiseWithoutFlag : Obligations.LogicActsBitwiseWithoutFlag := by
  refine ⟨decodesAs_formatXY fun _ _ => ⟨rfl, rfl⟩, decodesAs_formatXY fun _ _ => ⟨rfl, rfl⟩,
    decodesAs_formatXY fun _ _ => ⟨rfl, rfl⟩, fun x y s => ⟨?or, ?and, ?xor⟩⟩
  case or =>
    exact ⟨_, rfl, fun b => by rw [State.setReg_reg_same, BitVec.getLsbD_or], s.setReg_frame x _⟩
  case and =>
    exact ⟨_, rfl, fun b => by rw [State.setReg_reg_same, BitVec.getLsbD_and], s.setReg_frame x _⟩
  case xor =>
    exact ⟨_, rfl, fun b => by rw [State.setReg_reg_same, BitVec.getLsbD_xor], s.setReg_frame x _⟩

/-! ### RND (42_arithmetic.md R143) -/

/-- Settles O24: the mask clears a bit whatever the draw, and the count goes up before the write. -/
theorem rndMasksDraw : Obligations.RndMasksDraw := by
  refine ⟨decodesAs_formatXK fun _ _ => ⟨rfl, rfl⟩, fun x kk s => ?_⟩
  have hresult : (s.nextDraw.setReg x (Config.rnd s.draws &&& kk)).reg x = Config.rnd s.draws &&& kk :=
    State.setReg_reg_same ..
  refine ⟨_, rfl, hresult, fun b hb => ?mask, rfl, fun r hr => State.setReg_reg_ne _ hr _,
    exec_unchangedBut (.rnd x kk) s⟩
  case mask => rw [hresult, BitVec.getLsbD_and, hb, Bool.and_false]

end Sys2Proof.Machine

/-!
The index register and memory transfer (43_index_memory.md): the writers of I, the decimal digits of a register,
and the block transfers.
-/

namespace Sys2Proof.Machine

/-- A row of class 0xF takes the words of its sub-operation (30_encoding.md R80). -/
theorem decodesAs_formatXS {pattern : Word} {f : Reg → Instr}
    (h : ∀ x, Encodes (packXK (fieldC pattern) x (fieldKk pattern)) (f x)) :
    DecodesAs pattern 0xF0FF fun w => f (fieldX w) := fun w hw =>
  have ⟨hwf, henc⟩ := h (fieldX w)
  decodeWord_of_encodes
    ⟨hwf, henc.trans (packXK_of_sub (fieldC_of_mask hw rfl) (fieldKk_of_mask hw rfl))⟩

theorem byte_ofNat_toNat {n : Nat} (h : n < 256) : (BitVec.ofNat 8 n).toNat = n := by
  rw [BitVec.toNat_ofNat, Nat.mod_eq_of_lt h]

section
variable (s : State)

/-! ### Data addresses (43_index_memory.md R160) -/

theorem busAddress_dataAddress_ne {j k : Nat} (hj : j < Config.memBytes) (hk : k < Config.memBytes)
    (h : j ≠ k) : busAddress (dataAddress s j) ≠ busAddress (dataAddress s k) :=
  mt (dataAddress_injective s hj hk) h

theorem dataAddress_congr {s u : State} (h : u.index = s.index) (k : Nat) :
    dataAddress u k = dataAddress s k := by
  rw [dataAddress, dataAddress, h]

/-! ### Three bytes from I on (43_index_memory.md R164) -/

/-- The state with three bytes stored at I, I + 1 and I + 2. -/
def State.storeThree (b₀ b₁ b₂ : Byte) : State :=
  ((s.memWrite (dataAddress s 0) b₀).memWrite (dataAddress s 1) b₁).memWrite (dataAddress s 2) b₂

theorem exec_ldBVx (x : Reg) :
    exec (.ldBVx x) s = .next (s.storeThree (BitVec.ofNat 8 ((s.reg x).toNat / 100))
      (BitVec.ofNat 8 ((s.reg x).toNat / 10 % 10)) (BitVec.ofNat 8 ((s.reg x).toNat % 10))) := rfl

variable (b₀ b₁ b₂ : Byte)

theorem State.storeThree_memRead (a : Nat) :
    (s.storeThree b₀ b₁ b₂).memRead a =
      if busAddress a = busAddress (dataAddress s 2) then b₂
      else if busAddress a = busAddress (dataAddress s 1) then b₁
      else if busAddress a = busAddress (dataAddress s 0) then b₀ else s.memRead a := by
  rw [State.storeThree, State.memWrite_memRead, State.memWrite_memRead, State.memWrite_memRead]

theorem State.storeThree_memRead_first :
    (s.storeThree b₀ b₁ b₂).memRead (dataAddress s 0) = b₀ := by
  have hthird := busAddress_dataAddress_ne s (j := 0) (k := 2) (by decide) (by decide) (by decide)
  have hsecond := busAddress_dataAddress_ne s (j := 0) (k := 1) (by decide) (by decide) (by decide)
  rw [State.storeThree_memRead, if_neg hthird, if_neg hsecond, if_pos rfl]

theorem State.storeThree_memRead_second :
    (s.storeThree b₀ b₁ b₂).memRead (dataAddress s 1) = b₁ := by
  have hthird := busAddress_dataAddress_ne s (j := 1) (k := 2) (by decide) (by decide) (by decide)
  rw [State.storeThree_memRead, if_neg hthird, if_pos rfl]

theorem State.storeThree_memRead_third :
    (s.storeThree b₀ b₁ b₂).memRead (dataAddress s 2) = b₂ := by
  rw [State.storeThree_memRead, if_pos rfl]

theorem State.storeThree_memRead_other {a : Nat}
    (h : ∀ k < 3, busAddress a ≠ busAddress (dataAddress s k)) :
    (s.storeThree b₀ b₁ b₂).memRead a = s.memRead a := by
  rw [State.storeThree_memRead, if_neg (h 2 (by decide)), if_neg (h 1 (by decide)),
    if_neg (h 0 (by decide))]

end

/-- Settles O27: three stores at different addresses, of numbers that each fit a byte. -/
theorem ldBStoresDecimalDigits : Obligations.LdBStoresDecimalDigits := by
  refine ⟨decodesAs_formatXS fun _ => ⟨rfl, rfl⟩, fun x s => ?_⟩
  have hbyte := (s.reg x).isLt
  refine ⟨_, exec_ldBVx s x, ?hundreds, ?tens, ?ones,
    fun _ => s.storeThree_memRead_other _ _ _, exec_unchangedBut (.ldBVx x) s⟩
  case hundreds => rw [State.storeThree_memRead_first, byte_ofNat_toNat (by omega)]
  case tens => rw [State.storeThree_memRead_second, byte_ofNat_toNat (by omega)]
  case ones => rw [State.storeThree_memRead_third, byte_ofNat_toNat (by omega)]

/-! ### Block transfers (43_index_memory.md R165, R166) -/

/-- Settles O28: a block of x + 1 stores of the registers in their order. -/
theorem blockStoreWritesRegisters : Obligations.BlockStoreWritesRegisters :=
  ⟨decodesAs_formatXS fun _ => ⟨rfl, rfl⟩, fun x s =>
    ⟨storeRegs s (x.toNat + 1), rfl, fun _ hr => storeRegs_memRead_reg s hr,
      fun _ ha => storeRegs_memRead_other s fun k hk => ha k (Nat.le_of_lt_succ hk),
      unchangedBut_storeRegs s _⟩⟩

/-- A block load leaves each byte of the block in its own register. -/
theorem loadRegs_reg_of_le (s : State) {x r : Reg} (h : r ≤ x) :
    (loadRegs s (x.toNat + 1)).reg r = s.memRead (dataAddress s r.toNat) := by
  rw [loadRegs_reg s (Nat.succ_le_of_lt x.isLt), if_pos (Nat.lt_succ_of_le h)]

/-- Settles O29: a block of x + 1 loads, each of one register. -/
theorem blockLoadReadsRegisters : Obligations.BlockLoadReadsRegisters :=
  ⟨decodesAs_formatXS fun _ => ⟨rfl, rfl⟩, fun x s =>
    ⟨loadRegs s (x.toNat + 1), rfl, fun _ hr => loadRegs_reg_of_le s hr,
      fun _ hr => execLdVxMem_reg_of_lt s hr, unchangedBut_loadRegs s _⟩⟩

/-- Settles O30: the store leaves I, so the load reads the addresses the store wrote. -/
theorem blockStoreThenLoadRestores : Obligations.BlockStoreThenLoadRestores := by
  intro x s
  refine ⟨storeRegs s (x.toNat + 1), rfl, fun u hindex hmem =>
    ⟨loadRegs u (x.toNat + 1), rfl, fun r hr => ?_⟩⟩
  have hkept : (storeRegs s (x.toNat + 1)).index = s.index :=
    unchangedBut_storeRegs s _ .index (by decide)
  calc (loadRegs u (x.toNat + 1)).reg r
      = u.memRead (dataAddress u r.toNat) := loadRegs_reg_of_le u hr
    _ = u.memRead (dataAddress s r.toNat) := by rw [dataAddress_congr (hindex.trans hkept)]
    _ = (storeRegs s (x.toNat + 1)).memRead (dataAddress s r.toNat) := hmem _
    _ = s.reg r := storeRegs_memRead_reg s hr

/-! ### The writers of I (43_index_memory.md R161 to R163) -/

/-- Settles O25: the zero-extended address is the address. -/
theorem ldIndexWritesAddress : Obligations.LdIndexWritesAddress :=
  ⟨decodesAs_formatA fun _ => ⟨rfl, rfl⟩,
    fun nnn s => ⟨_, rfl, zextAddr_toNat nnn, unchangedBut_setIndex s _⟩⟩

theorem add_zextByte_toNat (w : Word) (b : Byte) :
    (w + zextByte b).toNat = (w.toNat + b.toNat) % 65536 := by
  rw [BitVec.toNat_add, zextByte_toNat]

/-- The address of a glyph, at most 0x4FB, fits a word. -/
theorem glyphAddress_toNat (b : Byte) :
    (Config.fontBase + Config.glyphBytes * zextByte b).toNat = 5 * b.toNat := by
  have hbyte := b.isLt
  calc (Config.fontBase + Config.glyphBytes * zextByte b).toNat
      = (Config.glyphBytes * zextByte b).toNat := by
        rw [Config.fontBase, BitVec.ofNat_eq_ofNat, BitVec.zero_add]
    _ = 5 * b.toNat % 65536 := by rw [BitVec.toNat_mul, zextByte_toNat]; rfl
    _ = 5 * b.toNat := Nat.mod_eq_of_lt (by omega)

/-- Settles O26: each is one write of I, of a 16-bit sum or of a glyph's address. -/
theorem indexArithmeticWritesNoFlag : Obligations.IndexArithmeticWritesNoFlag :=
  ⟨decodesAs_formatXS fun _ => ⟨rfl, rfl⟩, decodesAs_formatXS fun _ => ⟨rfl, rfl⟩, fun _ s =>
    ⟨⟨_, rfl, add_zextByte_toNat s.index _, unchangedBut_setIndex s _⟩,
      ⟨_, rfl, glyphAddress_toNat _, unchangedBut_setIndex s _⟩⟩⟩

end Sys2Proof.Machine

/-!
The display (44_display.md): CLS, one DRW as an inversion of the cells under the sprite's lit bits, and two
inversions of the same cells.
-/

namespace Sys2Proof.Machine

/-! ### The cells a sprite covers (44_display.md R180) -/

/-- The cells that the n-row sprite at I inverts, as `State.drawRows_inverts` marks them. -/
def spriteCell (s : State) (ox oy n : Nat) (cx : Fin 64) (cy : Fin 32) : Bool :=
  decide (ox ≤ cx.val ∧ cx.val < ox + 8 ∧ oy ≤ cy.val ∧ cy.val < oy + n) &&
    spriteBit (s.memRead (dataAddress s (cy.val - oy))) (cx.val - ox)

/-- The sprite's bit on a cell is the one at the cell's offset from the origin. -/
theorem spriteCell_iff {s : State} {ox oy n : Nat} {cx : Fin 64} {cy : Fin 32} :
    spriteCell s ox oy n cx cy = true ↔ SpriteCovers s ox oy n cx cy := by
  unfold spriteCell spriteBit
  rw [Bool.and_eq_true, decide_eq_true_eq]
  constructor
  · rintro ⟨⟨hleft, hright, htop, hbottom⟩, hbit⟩
    exact ⟨cy.val - oy, by omega, cx.val - ox, by omega, by omega, by omega, hbit⟩
  · rintro ⟨r, hr, c, hc, hx, hy, hbit⟩
    rw [hx, hy, Nat.add_sub_cancel_left, Nat.add_sub_cancel_left]
    exact ⟨by omega, hbit⟩

theorem spriteCell_congr {s w : State} (hindex : w.index = s.index) (hmem : Part.same .mem s w)
    (ox oy n : Nat) : spriteCell w ox oy n = spriteCell s ox oy n := by
  funext cx cy
  rw [spriteCell, spriteCell, dataAddress_congr hindex, hmem]

/-! ### One draw (44_display.md R182) -/

/-- The state after a DRW whose origin is column `ox` and row `oy`. -/
def State.drawSprite (s : State) (ox oy n : Nat) : State :=
  ((s.setFlag 0).drawRows ox oy n).setDirty true

theorem exec_drw (x y : Reg) (n : Nibble) (s : State) :
    exec (.drw x y n) s = .next (s.drawSprite (originColumn s x) (originRow s y) n.toNat) := rfl

section
variable (s : State) (ox oy n : Nat)

/-- VF is 0 before the first row, so that it is left at 0 where no lit cell goes off. -/
theorem State.drawSprite_inverts :
    Inverts (s.setFlag 0) (s.drawSprite ox oy n) (spriteCell s ox oy n) :=
  have ⟨hpixel, hhit, hmiss⟩ := (s.setFlag 0).drawRows_inverts ox oy n
  ⟨hpixel, hhit, hmiss⟩

variable {s ox oy n}

theorem State.drawSprite_pixel_of_covers {cx : Fin 64} {cy : Fin 32}
    (h : SpriteCovers s ox oy n cx cy) :
    (s.drawSprite ox oy n).pixel cx cy = !s.pixel cx cy := by
  rw [(s.drawSprite_inverts ox oy n).pixel, spriteCell_iff.2 h, Bool.xor_true, State.setFlag_pixel]

theorem State.drawSprite_pixel_of_not_covers {cx : Fin 64} {cy : Fin 32}
    (h : ¬ SpriteCovers s ox oy n cx cy) :
    (s.drawSprite ox oy n).pixel cx cy = s.pixel cx cy := by
  have hcell : spriteCell s ox oy n cx cy = false := Bool.eq_false_iff.2 (mt spriteCell_iff.1 h)
  rw [(s.drawSprite_inverts ox oy n).pixel, hcell, Bool.xor_false, State.setFlag_pixel]

theorem State.drawSprite_flag_of_collision
    (h : ∃ cx cy, SpriteCovers s ox oy n cx cy ∧ s.pixel cx cy = true) :
    (s.drawSprite ox oy n).reg regF = 1 := by
  obtain ⟨cx, cy, hcovers, hon⟩ := h
  exact (s.drawSprite_inverts ox oy n).hit ⟨cx, cy, spriteCell_iff.2 hcovers, hon⟩

theorem State.drawSprite_flag_of_no_collision
    (h : ¬ ∃ cx cy, SpriteCovers s ox oy n cx cy ∧ s.pixel cx cy = true) :
    (s.drawSprite ox oy n).reg regF = 0 := by
  rw [(s.drawSprite_inverts ox oy n).miss, State.setFlag_reg, if_pos rfl]
  rintro ⟨cx, cy, hcell, hon⟩
  exact h ⟨cx, cy, spriteCell_iff.1 hcell, hon⟩

end

/-- Settles O33: the origin is taken from the registers before VF's reset, and the sprite's loops are one inversion
of the covered cells. -/
theorem drwXorsClippedSprite : Obligations.DrwXorsClippedSprite := by
  refine ⟨decodesAs_formatXYN fun _ _ _ => ⟨rfl, rfl⟩, ?_⟩
  rintro x y n s _ _ rfl rfl
  exact ⟨_, exec_drw x y n s, fun _ _ => State.drawSprite_pixel_of_covers,
    fun _ _ => State.drawSprite_pixel_of_not_covers, State.drawSprite_flag_of_collision,
    State.drawSprite_flag_of_no_collision, rfl, fun _ hr => execDrw_reg_ne x y n s hr,
    exec_unchangedBut (.drw x y n) s⟩

/-! ### Two draws of the same cells -/

section
variable {s t w u : State} {p : Fin 64 → Fin 32 → Bool}

/-- A second inversion of the same cells restores every pixel. -/
theorem Inverts.restores (h : Inverts s t p) (k : Inverts w u p) (hw : Part.same .fb t w)
    (cx : Fin 64) (cy : Fin 32) : u.pixel cx cy = s.pixel cx cy := by
  rw [k.pixel, hw, h.pixel, Bool.xor_assoc, Bool.xor_self, Bool.xor_false]

/-- A cell that two inversions mark is on before the first or, the first having turned it on, before the second. -/
theorem Inverts.one_collides (h : Inverts s t p) (k : Inverts w u p) (hw : Part.same .fb t w)
    {cx : Fin 64} {cy : Fin 32} (hp : p cx cy = true) :
    if s.pixel cx cy = true then t.reg regF = 1 else u.reg regF = 1 := by
  split
  · next hon => exact h.hit ⟨cx, cy, hp, hon⟩
  · next hoff =>
    have hturned : w.pixel cx cy = true := by
      rw [hw, h.pixel, hp, Bool.eq_false_iff.2 hoff, Bool.false_xor]
    exact k.hit ⟨cx, cy, hp, hturned⟩

end

/-- Settles O56: the first draw leaves I and memory, so the second inverts the cells the first did. -/
theorem redrawAtSameOriginRestoresFramebuffer : Obligations.RedrawAtSameOriginRestoresFramebuffer := by
  intro x y x' y' n s
  refine ⟨_, exec_drw x y n s, fun w hindex hmem hfb hcol hrow => ⟨_, exec_drw x' y' n w, ?_⟩⟩
  have hframe := unchangedBut_execDrw s x y n
  have hcells := spriteCell_congr (hindex.trans (hframe .index (by decide)))
    (fun a => (hmem a).trans (hframe .mem (by decide) a))
    (originColumn s x) (originRow s y) n.toNat
  have hsecond := w.drawSprite_inverts (originColumn s x) (originRow s y) n.toNat
  rw [hcells] at hsecond
  rw [show originColumn w x' = originColumn s x from hcol,
    show originRow w y' = originRow s y from hrow]
  have hfirst := s.drawSprite_inverts (originColumn s x) (originRow s y) n.toNat
  exact ⟨hfirst.restores hsecond hfb,
    fun _ _ hcovers => hfirst.one_collides hsecond hfb (spriteCell_iff.2 hcovers)⟩

/-- Settles O34: the first draw leaves the coordinates' registers, so the second has its origin. -/
theorem drwTwiceRestoresFramebuffer : Obligations.DrwTwiceRestoresFramebuffer := by
  intro x y n s hx hy
  obtain ⟨t, ht, hredraw⟩ := redrawAtSameOriginRestoresFramebuffer x y x y n s
  have hkept : ∀ r, r ≠ regF → t.reg r = s.reg r := fun r hr =>
    everyNext_iff.1 (execDrw_reg_ne x y n s hr) t ht
  obtain ⟨u, hu, hpixels, hflag⟩ := hredraw t rfl (fun _ => rfl) (fun _ _ => rfl)
    (by rw [hkept x hx]) (by rw [hkept y hy])
  exact ⟨t, u, ht, hu, hpixels, hflag⟩

/-! ### Clearing the screen (44_display.md R181) -/

/-- Settles O32: a blank grid, then the dirty flag. -/
theorem clsClearsAndSetsDirty : Obligations.ClsClearsAndSetsDirty :=
  ⟨decodesAs_encode (i := .cls) rfl, fun s =>
    ⟨s.clearFb.setDirty true, rfl, s.clearFb_pixel, rfl, exec_unchangedBut .cls s⟩⟩

end Sys2Proof.Machine

/-!
Key input and timer access (45_input_timers.md): the key skips, the key wait, and the transfers between a register
and a timer.
-/

namespace Sys2Proof.Machine

section
variable (s : State)

/-! ### The key test (45_input_timers.md R200) -/

/-- A byte that holds a key's number tests that key's latch and takes no draw. -/
theorem pressed_of_toNat_eq {b : Byte} {k : Nibble} (h : b.toNat = k.toNat) :
    pressed s b = (s.keyDown k, s) := by
  have hle : b ≤ 0xF := by bv_omega
  have hkey : keyNumber b = k := by
    apply BitVec.eq_of_toNat_eq
    rw [keyNumber, BitVec.toNat_setWidth, h, Nat.mod_eq_of_lt k.isLt]
  rw [pressed_of_le s hle, hkey]

/-- A byte above every key's number takes the next draw (decision D8, log 1). -/
theorem pressed_of_gt {b : Byte} (h : 15 < b.toNat) :
    pressed s b = (Config.keyOob s.draws, s.nextDraw) :=
  pressed_of_not_le s (by bv_omega)

/-! ### What a skip on a test writes and leaves (41_control_flow.md R101) -/

theorem State.skipIf_pc (c : Bool) : (s.skipIf c).pc = if c = true then s.pc + 2 else s.pc := by
  rw [State.skipIf_eq, State.setPc_pc]

theorem State.skipIf_not_pc (c : Bool) :
    (s.skipIf (!c)).pc = if c = true then s.pc else s.pc + 2 := by
  cases c <;> rfl

@[simp] theorem State.skipIf_draws (c : Bool) : (s.skipIf c).draws = s.draws := by
  rw [State.skipIf_eq, State.setPc_draws]

end

/-! ### SKP and SKNP (45_input_timers.md R201, R202) -/

section
variable {s t : State} {x : Reg} {down : Bool}

theorem exec_skp_of_pressed (h : pressed s (s.reg x) = (down, t)) :
    exec (.skp x) s = .next (t.skipIf down) := by
  rw [exec, execSkp, h]

theorem exec_sknp_of_pressed (h : pressed s (s.reg x) = (down, t)) :
    exec (.sknp x) s = .next (t.skipIf !down) := by
  rw [exec, execSknp, h]

end

/-- Settles O35: the key test gives the latch and the very state, or the next draw and one more draw used. -/
theorem keySkipsTestLatch : Obligations.KeySkipsTestLatch := by
  refine ⟨decodesAs_formatXS fun _ => ⟨rfl, rfl⟩, decodesAs_formatXS fun _ => ⟨rfl, rfl⟩,
    fun x s => ⟨?latch, ?draw⟩⟩
  case latch =>
    intro k hk
    have htest := pressed_of_toNat_eq s hk
    exact ⟨⟨_, exec_skp_of_pressed htest, s.skipIf_pc _, unchangedBut_skipIf s _⟩,
      ⟨_, exec_sknp_of_pressed htest, s.skipIf_not_pc _, unchangedBut_skipIf s _⟩⟩
  case draw =>
    intro hgt
    have htest := pressed_of_gt s hgt
    have hskp := exec_skp_of_pressed htest
    have hsknp := exec_sknp_of_pressed htest
    exact
      ⟨⟨_, hskp, s.nextDraw.skipIf_pc _, s.nextDraw.skipIf_draws _, fun _ => same_of_exec hskp⟩,
        ⟨_, hsknp, s.nextDraw.skipIf_not_pc _, s.nextDraw.skipIf_draws _,
          fun _ => same_of_exec hsknp⟩⟩

/-! ### The key wait (45_input_timers.md R203) -/

section
variable {s : State} (x : Reg)

theorem exec_ldVxK_of_lowest {k : Nibble} (hk : s.keyDown k = true)
    (hlow : ∀ j, j < k → s.keyDown j = false) :
    exec (.ldVxK x) s = .next (s.setReg x (k.setWidth 8)) := by
  rw [exec, execLdVxK, (firstKey_eq_some s).2 ⟨hk, hlow⟩]

theorem exec_ldVxK_of_no_key (h : ∀ k, s.keyDown k = false) :
    exec (.ldVxK x) s = .next (s.setPc (s.pc - 2)) := by
  rw [exec, execLdVxK, (firstKey_eq_none s).2 h]

end

/-- The rewind undoes the fetch's advance, and with it all that a step had done. -/
theorem State.advancePc_setPc_back (s : State) :
    s.advancePc.setPc (s.advancePc.pc - 2) = s :=
  congrArg s.setPc (advance_back s.pc)

/-- Settles O36: the scan finds the lowest set key, or none and the pc is rewound. -/
theorem keyWaitScansOrRewinds : Obligations.KeyWaitScansOrRewinds := by
  refine ⟨decodesAs_formatXS fun _ => ⟨rfl, rfl⟩, fun x s => ⟨?key, ?noKey⟩⟩
  case key =>
    intro k hk hlow
    have hnumber : ((s.setReg x (k.setWidth 8)).reg x).toNat = k.toNat := by
      rw [State.setReg_reg_same, BitVec.toNat_setWidth_of_le (by decide)]
    exact ⟨_, exec_ldVxK_of_lowest x hk hlow, hnumber, s.setReg_frame x _⟩
  case noKey =>
    intro hkeys
    refine ⟨⟨_, exec_ldVxK_of_no_key x hkeys, rfl, unchangedBut_setPc s _⟩, fun hfault hword => ?_⟩
    calc step s
        = exec (.ldVxK x) s.advancePc := by rw [step_of_fault_eq_none hfault, hword]
      _ = .next (s.advancePc.setPc (s.advancePc.pc - 2)) := exec_ldVxK_of_no_key x hkeys
      _ = .next s := by rw [State.advancePc_setPc_back]

/-! ### The timers (45_input_timers.md R204 to R206; decision D13, log 14) -/

/-- Settles O37: a write of one register or of one timer, of the other's value. -/
theorem timerTransfers : Obligations.TimerTransfers :=
  ⟨decodesAs_formatXS fun _ => ⟨rfl, rfl⟩, decodesAs_formatXS fun _ => ⟨rfl, rfl⟩,
    decodesAs_formatXS fun _ => ⟨rfl, rfl⟩, fun x s =>
      ⟨⟨_, rfl, s.setReg_reg_same x _, s.setReg_frame x _⟩,
        ⟨_, rfl, rfl, unchangedBut_setDt s _⟩,
        ⟨_, rfl, rfl, unchangedBut_setSt s _⟩⟩⟩

end Sys2Proof.Machine

/-!
Faults and the host's commands (60_exceptions.md): the entry of a stack fault and what a set fault stops, the
commands beside Execute, and the invariant along every schedule.
-/

namespace Sys2Proof.Machine

/-! ### No instruction stops the model (60_exceptions.md R220; logs 5 and 6) -/

/-- With sp in its range every instruction completes: only a call and a return can stop, and only above it. -/
theorem exec_completes (i : Instr) {s : State} (hs : s.sp.toNat ≤ 16) : ∃ t, exec i s = .next t := by
  cases i with
  | call nnn =>
    obtain ⟨-, h⟩ | ⟨_, h⟩ | ⟨hgt, -⟩ := s.callTo_cases (zextAddr nnn)
    · exact ⟨_, h⟩
    · exact ⟨_, h⟩
    · exact absurd hs hgt.not_ge
  | ret =>
    obtain ⟨-, h⟩ | ⟨-, _, h⟩ | ⟨hgt, -⟩ := s.returnFromCall_cases
    · exact ⟨_, h⟩
    · exact ⟨_, h⟩
    · exact absurd hs hgt.not_ge
  | ldVxK x =>
    obtain ⟨_, -, h⟩ | ⟨-, h⟩ := execLdVxK_cases s x
    · exact ⟨_, h⟩
    · exact ⟨_, h⟩
  | _ => exact ⟨_, rfl⟩

/-- Settles O54: a faulted block does not move, and the invariant bounds sp for the instruction fetched. -/
theorem stepNeverStops : Obligations.StepNeverStops := by
  intro s hs
  by_cases hf : s.fault = .none
  · rw [step_of_fault_eq_none hf]
    exact exec_completes _ (s := s.advancePc) hs.stack
  · exact ⟨s, step_of_fault_ne_none hf⟩

/-! ### Reset and Load (70_reset_and_hazards.md R260, R262, R263) -/

/-- Everything a Load can do: Reset alone, or Reset and the image, which fits above 0x200. -/
theorem State.load_cases (s : State) (image : List Byte) :
    s.load image = (.romTooLarge, s.resetCommand) ∨
    (Config.programBase + image.length ≤ Config.memBytes ∧
      s.load image = (.ok, { s.resetCommand with
        mem := s.resetCommand.mem.writeList Config.programBase image })) := by
  unfold State.load
  split
  · exact .inl rfl
  · exact .inr ⟨Nat.add_le_of_le_sub' (by decide) (Nat.le_of_not_gt ‹_›), rfl⟩

@[simp] theorem State.resetCommand_fault (s : State) : s.resetCommand.fault = .none := rfl

@[simp] theorem State.load_fault (s : State) (image : List Byte) : (s.load image).2.fault = .none := by
  obtain h | ⟨-, h⟩ := s.load_cases image
  · rw [h, s.resetCommand_fault]
  · rw [h]
    exact s.resetCommand_fault

/-! ### The invariant under the commands -/

/-- The invariant speaks of memory, the pc, sp and the fault register only. -/
theorem State.Inv.congr {s t : State} (hs : s.Inv) (hmem : t.mem = s.mem) (hpc : t.pc = s.pc)
    (hsp : t.sp = s.sp) (hfault : t.fault = s.fault) : t.Inv := by
  obtain ⟨hmemory, hstack, hprecise⟩ := hs
  have hword : t.fetchWord = s.fetchWord := by simp only [State.fetchWord, State.memRead, hmem, hpc]
  rw [FaultPrecise, ← hfault, ← hsp, ← hword] at hprecise
  exact ⟨hmem ▸ hmemory, hsp ▸ hstack, hprecise⟩

theorem State.reset_inv : State.reset.Inv where
  memory := Memory.wf_nil
  stack := Nat.zero_le _
  fault := faultPrecise_of_fault_eq_none rfl

theorem State.resetCommand_inv (s : State) : s.resetCommand.Inv :=
  State.reset_inv.congr rfl rfl rfl rfl

/-- The image is written inside the address space, so memory stays canonical whatever its bytes. -/
theorem State.load_inv (s : State) (image : List Byte) : (s.load image).2.Inv := by
  obtain h | ⟨hfits, h⟩ := s.load_cases image
  · rw [h]
    exact s.resetCommand_inv
  · rw [h]
    exact
      { memory := Memory.wf_writeList hfits s.resetCommand_inv.memory
        stack := s.resetCommand_inv.stack
        fault := faultPrecise_of_fault_eq_none s.resetCommand_fault }

theorem State.command_execute_of_step {s t : State} (h : step s = .next t) :
    s.command .execute = .next (t, .nothing) := by
  rw [State.command, h]

/-- Settles O57: Execute is a step, Reset and Load start from the reset values, and the other commands write
nothing the invariant speaks of. -/
theorem everyCommandKeepsInvariant : Obligations.EveryCommandKeepsInvariant := by
  intro s c hs
  cases c with
  | execute =>
    obtain ⟨t, ht⟩ := stepNeverStops s hs
    exact ⟨t, _, State.command_execute_of_step ht, stepKeepsInvariant s t hs ht⟩
  | reset => exact ⟨_, _, rfl, s.resetCommand_inv⟩
  | load image => exact ⟨_, _, rfl, s.load_inv image⟩
  | tickTimers | setKey | getFramebuffer | consumeDirtyFlag | isSoundActive | getFault =>
    exact ⟨_, _, rfl, hs.congr rfl rfl rfl rfl⟩

/-! ### Schedules (60_exceptions.md R238; decision D18, log 7) -/

theorem State.schedule_cons_of_next {s t u : State} {c : Command} {cs : List Command} {r : Response}
    {rs : List Response} (hc : s.command c = .next (t, r)) (hcs : t.schedule cs = .next (u, rs)) :
    s.schedule (c :: cs) = .next (u, r :: rs) := by
  simp only [State.schedule, hc, hcs]

/-- The induction over a schedule, from any state that meets the invariant. -/
theorem State.Inv.schedule {s : State} (hs : s.Inv) (cs : List Command) :
    ∃ t rs, s.schedule cs = .next (t, rs) ∧ rs.length = cs.length ∧ t.Inv := by
  induction cs generalizing s with
  | nil => exact ⟨s, [], rfl, rfl, hs⟩
  | cons c cs ih =>
    obtain ⟨t, r, hc, ht⟩ := everyCommandKeepsInvariant s c hs
    obtain ⟨u, rs, hcs, hlen, hu⟩ := ih ht
    exact ⟨u, r :: rs, State.schedule_cons_of_next hc hcs, congrArg Nat.succ hlen, hu⟩

/-- Settles O55: the reset state meets the invariant, and every command completes and keeps it. -/
theorem everyScheduleRunsSafely : Obligations.EveryScheduleRunsSafely :=
  State.reset_inv.schedule

/-! ### The stack faults (60_exceptions.md R220 to R223; decisions D3 to D5, log 10) -/

/-- The entry of a fault takes the fetch's advance back: only the fault register differs from before the fetch. -/
theorem State.raise_advancePc (s : State) (code : FaultCode) :
    s.advancePc.raise code = { s with fault := code } :=
  congrArg (fun pc => { s with pc := pc, fault := code }) (advance_back s.pc)

/-- Settles O38: at its bound of sp the fetched instruction does nothing but raise. -/
theorem stackFaultEntryIsPrecise : Obligations.StackFaultEntryIsPrecise := by
  refine fun s hf => ⟨fun nnn hword hfull => ?overflow, fun hword hempty => ?underflow⟩
  case overflow =>
    have hsp : s.advancePc.sp = 16 := BitVec.eq_of_toNat_eq hfull
    calc step s
        = exec (.call nnn) s.advancePc := by rw [step_of_fault_eq_none hf, hword]
      _ = .next (s.advancePc.raise .stackOverflow) := State.callTo_of_full _ hsp _
      _ = _ := by rw [State.raise_advancePc]
  case underflow =>
    have hsp : s.advancePc.sp = 0 := BitVec.eq_of_toNat_eq hempty
    calc step s
        = exec .ret s.advancePc := by rw [step_of_fault_eq_none hf, hword]
      _ = .next (s.advancePc.raise .stackUnderflow) := State.returnFromCall_of_empty _ hsp
      _ = _ := by rw [State.raise_advancePc]

/-- Settles O39: an instruction leaves the fault register clear or is one of the two raises. -/
theorem faultsComeOnlyFromCallAndRet : Obligations.FaultsComeOnlyFromCallAndRet := by
  intro s t hf h hfault
  rw [step_of_fault_eq_none hf] at h
  obtain hsame | ⟨nnn, hcall, hsp, rfl⟩ | ⟨hret, hsp, rfl⟩ := exec_fault_cases h
  · exact absurd (hsame.trans hf) hfault
  · exact .inl ⟨rfl, congrArg BitVec.toNat hsp, nnn, hcall⟩
  · exact .inr ⟨rfl, congrArg BitVec.toNat hsp, hret⟩

/-- Settles O40: a faulted step answers its state, and of the other commands only Reset and Load write the fault
register. -/
theorem faultIsStickyUntilResetOrLoad : Obligations.FaultIsStickyUntilResetOrLoad := by
  intro s hf
  have hstep := step_of_fault_ne_none hf
  refine ⟨hstep, fun c hreset hload => ?others, ⟨_, rfl, s.resetCommand_fault⟩,
    fun image => ⟨_, _, rfl, s.load_fault image⟩⟩
  case others =>
    cases c with
    | execute => exact ⟨s, _, State.command_execute_of_step hstep, rfl⟩
    | reset => exact absurd rfl hreset
    | load image => exact absurd rfl (hload image)
    | tickTimers | setKey | getFramebuffer | consumeDirtyFlag | isSoundActive | getFault =>
      exact ⟨_, _, rfl, rfl⟩

/-- Settles O41: GetFault's arm of the commands. -/
theorem getFaultReadsFaultRegister : Obligations.GetFaultReadsFaultRegister := fun _ => rfl

/-! ### The timers, the latch, the gate and the grid (60_exceptions.md R229, R230, R233, R234) -/

theorem tickDown_of_eq_zero {b : Byte} (h : b = 0) : tickDown b = 0 := if_pos h

theorem tickDown_toNat_add_one {b : Byte} (h : b ≠ 0) : (tickDown b).toNat + 1 = b.toNat := by
  rw [tickDown, if_neg h]
  bv_omega

theorem unchangedBut_tickTimers (s : State) : UnchangedBut [.dt, .st] s s.tickTimers :=
  ((unchangedBut_setDt s _).mono (by decide)).trans ((unchangedBut_setSt _ _).mono (by decide))

/-- Settles O45: each timer is written with its own count one tick later. -/
theorem tickTimersCountsDown : Obligations.TickTimersCountsDown :=
  fun s => ⟨s.tickTimers, rfl, tickDown_of_eq_zero, tickDown_toNat_add_one, tickDown_of_eq_zero,
    tickDown_toNat_add_one, unchangedBut_tickTimers s⟩

/-- Settles O46: a write of one entry of the latch. -/
theorem setKeyWritesOneKey : Obligations.SetKeyWritesOneKey := by
  intro s k down
  have hkey := s.setKey_keyDown k down
  exact ⟨s.setKey k down, rfl, (hkey k).trans (if_pos rfl), fun j hj => (hkey j).trans (if_neg hj),
    unchangedBut_setKey s k down⟩

/-- Settles O47: the order of bytes is that of their values, and the grid returned is the framebuffer. -/
theorem gateAndGridAreReadOnly : Obligations.GateAndGridAreReadOnly :=
  fun s => ⟨rfl, s.fb, rfl, fun _ _ => rfl⟩

end Sys2Proof.Machine

/-!
Reset and Load (70_reset_and_hazards.md): the values of the reset state, and what a Load leaves beside Reset, as
its image fits or not.
-/

namespace Sys2Proof.Machine

/-! ### The values after Reset (70_reset_and_hazards.md R260, R261; 10_state.md R36, R37) -/

theorem busAddress_of_lt {a : Nat} (h : a < Config.memBytes) : busAddress a = a := Nat.mod_eq_of_lt h

theorem State.resetCommand_memRead (s : State) {a : Nat} (h : a < Config.memBytes) :
    s.resetCommand.memRead a = resetByte a :=
  congrArg resetByte (busAddress_of_lt h)

theorem resetByte_of_lt {a : Nat} (h : a < fontTable.length) : resetByte a = fontTable[a] :=
  List.getD_eq_getElem fontTable 0 h

theorem resetByte_of_le {a : Nat} (h : fontTable.length ≤ a) : resetByte a = 0 :=
  List.getD_eq_default fontTable 0 h

theorem fontTable_length_le : fontTable.length ≤ Config.memBytes := by decide

theorem State.resetCommand_hasResetValues (s : State) : HasResetValues s.resetCommand where
  regs r := Vector.getElem_replicate r.isLt
  index := rfl
  pc := rfl
  sp := rfl
  stack j := Vector.getElem_replicate j.isLt
  timers := ⟨rfl, rfl⟩
  keys k := Vector.getElem_replicate k.isLt
  pixels := s.resetCommand.clearFb_pixel
  dirty := rfl
  fault := rfl
  font a h := by rw [s.resetCommand_memRead (h.trans_le fontTable_length_le), resetByte_of_lt h]
  zeros a hfont h := by rw [s.resetCommand_memRead h, resetByte_of_le hfont]

/-- Settles O42: the reset state is what Reset makes of itself, its count of draws being 0. -/
theorem resetGivesResetValues : Obligations.ResetGivesResetValues :=
  ⟨State.reset.resetCommand_hasResetValues, fun s => ⟨_, rfl, s.resetCommand_hasResetValues, rfl⟩⟩

/-- Settles O53: nothing is listed, the stack is empty and no fault is set. -/
theorem resetMeetsInvariant : Obligations.ResetMeetsInvariant := State.reset_inv

/-! ### Load (70_reset_and_hazards.md R262, R263) -/

theorem State.load_of_le (s : State) {image : List Byte} (h : image.length ≤ Config.maxImage) :
    s.load image = (.ok, { s.resetCommand with
      mem := s.resetCommand.mem.writeList Config.programBase image }) :=
  if_neg h.not_gt

theorem State.load_of_gt (s : State) {image : List Byte} (h : Config.maxImage < image.length) :
    s.load image = (.romTooLarge, s.resetCommand) :=
  if_pos h

theorem unchangedBut_withMem (s : State) (m : Memory) : UnchangedBut [.mem] s { s with mem := m } := by
  intro p hp
  cases p with
  | mem => exact absurd (List.mem_singleton_self Part.mem) hp
  | regs => exact fun _ => rfl
  | stack => exact fun _ => rfl
  | key => exact fun _ => rfl
  | fb => exact fun _ _ => rfl
  | index | pc | sp | dt | st | dirty | fault | draws => rfl

section
variable (s : State) (bytes : List Byte) (start : Nat)

/-- Bytes written inside the address space: the byte number `i` is read at the `i`-th address. -/
theorem State.writeList_memRead_add {i : Nat} (h : i < bytes.length)
    (hfits : start + bytes.length ≤ Config.memBytes) :
    ({ s with mem := s.mem.writeList start bytes } : State).memRead (start + i) = bytes[i] := by
  have haddr : busAddress (start + i) = start + i := busAddress_of_lt (by omega)
  have hin : start ≤ start + i ∧ start + i - start < bytes.length := by omega
  rw [State.memRead, haddr, Memory.read_writeList, dif_pos hin]
  simp only [Nat.add_sub_cancel_left]

/-- An address before the first byte written or past the last reads as before. -/
theorem State.writeList_memRead_other {a : Nat} (h : a < start ∨ start + bytes.length ≤ a)
    (ha : a < Config.memBytes) :
    ({ s with mem := s.mem.writeList start bytes } : State).memRead a = s.memRead a := by
  have hout : ¬ (start ≤ a ∧ a - start < bytes.length) := by omega
  rw [State.memRead, State.memRead, busAddress_of_lt ha, Memory.read_writeList, dif_neg hout]

end

/-- Settles O43: an image that fits is written over the reset memory, inside the address space. -/
theorem loadCopiesImage : Obligations.LoadCopiesImage := by
  intro s image hlen
  have hfits : Config.programBase + image.length ≤ Config.memBytes := Nat.add_le_add_left hlen _
  refine ⟨(s.load image).2, s.resetCommand, ?answer, rfl, s.resetCommand_hasResetValues, ?frame⟩
  case answer => simp only [State.command, s.load_of_le hlen]
  case frame =>
    rw [s.load_of_le hlen]
    exact ⟨fun _ hi => State.writeList_memRead_add _ _ _ hi hfits,
      fun _ => State.writeList_memRead_other _ _ _, unchangedBut_withMem _ _⟩

/-- Settles O44: an image that does not fit leaves Load with Reset alone. -/
theorem oversizedLoadLeavesResetState : Obligations.OversizedLoadLeavesResetState := by
  intro s image hlen
  refine ⟨s.resetCommand, ?_, rfl⟩
  simp only [State.command, s.load_of_gt hlen]

end Sys2Proof.Machine

/-!
The words written out in 95_test_vectors.md section 2.1.
-/

namespace Sys2Proof.Machine

/-- Settles O4: each named instruction is well formed and encodes to its word, and the decoder undoes the encoder. -/
theorem sampleWordsDecode : Obligations.SampleWordsDecode := by
  unfold Obligations.SampleWordsDecode
  and_intros
  all_goals exact decodeWord_of_encodes ⟨rfl, rfl⟩

end Sys2Proof.Machine
